-- ==== Sys2Proof/Word.lean ====
section
/-! DEFINITION. The word types of ICR-CORE (spec/00_scope.md R11, R16): unsigned and two's-complement fields are
bit vectors, a real value is an exact rational (log 1). Bit 0 is the least significant bit of every word (R10). -/

namespace Sys2Proof

/-- A 4-bit unsigned field: an opcode or an instance number (R81). -/
abbrev U4 := BitVec 4
/-- A 6-bit unsigned value: a hexagram, an entry of ORDER (R26, R88). -/
abbrev U6 := BitVec 6
/-- A 7-bit unsigned value: CURSOR (R27). -/
abbrev U7 := BitVec 7
/-- An 8-bit unsigned field: the parameter index of a command (R81). -/
abbrev U8 := BitVec 8
/-- A 16-bit unsigned value: RD_DATA, DIVCNT (R25, R36). -/
abbrev U16 := BitVec 16
/-- A 16-bit two's-complement value, read by `BitVec.toInt`: a parameter register (R40). -/
abbrev S16 := BitVec 16
/-- A 32-bit unsigned value: RNG, ISEQ_POS, the command word, the sample rate (R21, R31, R50). -/
abbrev U32 := BitVec 32
/-- A 32-bit two's-complement value, read by `BitVec.toInt`: a table entry, a Q16.16 input (R50, R60). -/
abbrev S32 := BitVec 32
/-- REAL in exact arithmetic (R16): with rational constants every value the rules produce is rational. -/
abbrev REAL := Rat

end Sys2Proof
end

