-- ==== Sys2Proof/Config.lean ====
section
/-! DEFINITION. What an implementation fixes: the structural parameters of spec/00_scope.md R7 and the content
parameters of R8. The chip's own configuration is `Config.chip`, an opaque constant: no value of it can be
evaluated or assumed (R8: "None may be guessed"). Every operation takes the configuration as an argument, so
that the test fixture REFCFG of R9 can be run beside it (Tests/Slice0.lean). -/

namespace Sys2Proof

/-- Number of hexagrams (R7). -/
abbrev nHex : Nat := 64
/-- Number of scales: 16 standard and 117 exotic (R7). -/
abbrev nScales : Nat := 133
/-- Offsets of one exotic scale (R7). -/
abbrev exoticSlots : Nat := 20
/-- Number of integer-sequence tables (R7). -/
abbrev nIseqTables : Nat := 10
/-- Entries of one integer-sequence table (R7). -/
abbrev iseqTableLen : Nat := 128
/-- Functional parameter registers of one generator (R7, decision D6). -/
abbrev nParams : Nat := 12
/-- Integer parameters in the host's vector; 8 of them are routing and have no register (R7, R41). -/
abbrev nParamsHost : Nat := 20
/-- The logic threshold: a level above it is high (R7, R93). -/
abbrev thresh : REAL := 1
/-- The blue filter's cutoff in hertz (R7, R188). -/
abbrev blueFc : REAL := 100

/-- Raw contents of one standard scale: 5 + `extra` entries, the last of them 12. The list of R140 is built from
it by `stdScaleList` (Machine/Tables.lean), which yields every list R8 and R143 admit and no other (log 3). -/
structure RawStdScale where
  extra : Fin 4
  degrees : Vector (Fin 13) 7
deriving DecidableEq, Repr, Inhabited

/-- Raw contents of one exotic row: how many leading slots are populated, and the slots. The 20 offsets of R63 are
built from it by `exoticList` (Machine/Tables.lean), which yields every row R8 admits and no other (log 3). -/
structure RawExotic where
  populated : Fin 21
  slots : Vector REAL 20
deriving DecidableEq, Repr, Inhabited

/-- The configuration of the block (R7, R8). A field is constrained only as the spec states; where the spec states
a constraint that a type cannot say, the field is raw data and an accessor of Machine/Tables.lean meets it. -/
structure Config where
  /-- N_INST less 1: the block holds 1 to 16 generators (R7, D9). -/
  moreInst : Fin 16
  /-- SEED (R251). -/
  seed : U32
  /-- RNG_NEXT: a total function of the state alone (R120). -/
  rngNext : U32 → U32
  /-- RNG_OUT: an integer in [0, 2^32) (R120, D10). -/
  rngOut : U32 → U32
  /-- HEX_CV: any total function of the six lines (R128, D11). -/
  hexCv : U6 → REAL
  /-- STD_SCALE, index 0..15 (R62, R140). -/
  stdScale : Fin 16 → RawStdScale
  /-- EXOTIC, index 16..132, here numbered from 0 (R63, R140). -/
  exotic : Fin 117 → RawExotic
  /-- ISEQ_TABLE: ten tables of 128 signed 32-bit integers (R64, D17). -/
  iseqTable : Fin 10 → Fin 128 → S32
  /-- WHITE before its range is met: `whiteMap` keeps it inside [-1, 1] (R8, R180). -/
  whiteRaw : U32 → REAL
  pinkLeak : Fin 3 → REAL
  pinkGain : Fin 3 → REAL
  pinkW : Fin 3 → REAL
  pinkDirect : REAL
  brownLeak : REAL
  brownGain : REAL
  brownOut : REAL
  /-- TWO_PI as (num + 1) / (den + 1): a positive real (R188: "the denominator is > 0"; log 3). -/
  twoPiNum : Nat
  twoPiDen : Nat
  /-- OUT_FMT: what the real-valued output ports carry for a register's value (R50; log 12). -/
  outFmt : REAL → REAL
deriving Inhabited

/-- N_INST, 1..16 (R7). -/
def Config.nInst (cfg : Config) : Nat := cfg.moreInst.val + 1

/-- The configuration of the hardware: open, as the spec leaves it (R8; log 2). -/
opaque Config.chip : Config

end Sys2Proof
end

