-- ==== Sys2Proof/Machine/Shuffle.lean ====
section
/-! DEFINITION. The shared random generator and the Fisher–Yates shuffle as functions of the generator's state and
of one ORDER array (spec/41_hexagram_scheduler.md R120, R122). Reset runs the shuffle too (R252), so they stand
before State. -/

namespace Sys2Proof.Machine

/-- RAND: the new state of the generator, and the integer it returns, which is computed from the NEW state (R120). -/
def rand (cfg : Config) (rng : U32) : U32 × Nat :=
  (cfg.rngNext rng, (cfg.rngOut (cfg.rngNext rng)).toNat)

/-- Exchange the entries at addresses `k` and `j` of ORDER. R61: no rule presents an address outside 0..63, and the
second branch is that case, which SHUFFLE never takes. -/
def exchange (o : Vector U6 64) (k j : Nat) : Vector U6 64 :=
  if h : k < 64 ∧ j < 64 then o.swap k j h.1 h.2 else o

/-- The iterations `k` = `n`, `n` - 1, ..., 1 of SHUFFLE: draw `r`, take `j = r mod (k + 1)`, exchange `k` and `j` (R122). -/
def shuffleFrom (cfg : Config) : Nat → U32 → Vector U6 64 → U32 × Vector U6 64
  | 0, rng, o => (rng, o)
  | k + 1, rng, o =>
    shuffleFrom cfg k (rand cfg rng).1 (exchange o (k + 1) ((rand cfg rng).2 % (k + 2)))

/-- SHUFFLE on one ORDER array: `k` = 63 downto 1 (R122). -/
def shuffleOrder (cfg : Config) (rng : U32) (o : Vector U6 64) : U32 × Vector U6 64 :=
  shuffleFrom cfg 63 rng o

/-- The identity array: entry `k` holds `k` (R252). -/
def identityOrder : Vector U6 64 := Vector.ofFn fun k => BitVec.ofNat 6 k.val

end Sys2Proof.Machine
end

