-- ==== Sys2Proof/Machine/Records.lean ====
section
/-! DEFINITION. The parts of the state record (spec/10_state.md R20): the singletons, the record of one generator
instance, the input ports; and what reset leaves in one instance's record (spec/70_reset_and_hazards.md R252 to
R254). -/

namespace Sys2Proof.Machine

/-- The singletons, shared by all instances (R20). -/
structure Shared where
  /-- RNG (R21). -/
  rng : U32
  /-- NS.PINK[0..2] (R22). -/
  pink : Vector REAL 3
  /-- NS.BROWN (R23). -/
  brown : REAL
  /-- NS.BLUE_PREV (R24). -/
  bluePrev : REAL
  /-- DIVCNT (R25). -/
  divcnt : U16
deriving DecidableEq, Repr

/-- The record of one generator instance (R20). -/
structure GenInst where
  /-- ORDER[i][0..63] (R26). -/
  order : Vector U6 64
  /-- CURSOR[i] (R27). -/
  cursor : U7
  /-- LINES[i][0..5], bottom line first (R28). -/
  lines : Vector Bool 6
  /-- CLK_PREV[i] (R29). -/
  clkPrev : Bool
  /-- ISEQ_POS[i] (R31). -/
  iseqPos : U32
  /-- TRIG_PREV[i] (R30). -/
  trigPrev : Bool
  /-- DIV_OUT[i] (R33). -/
  divOut : Bool
  /-- P[i][0..11] (R40). -/
  params : Vector S16 12
  /-- OUT_RAW[i] (R35). -/
  outRaw : REAL
  /-- OUT_QUANT[i] (R35). -/
  outQuant : REAL
  /-- OUT_ISEQ[i] (R35). -/
  outIseq : REAL
  /-- OUT_NOISE[i] (R35). -/
  outNoise : REAL
deriving DecidableEq, Repr

/-- The levels on the input ports when a command is presented (R50). -/
structure InPorts where
  rst : Bool
  cmdValid : Bool
  cmd : U32
  /-- The main clock level, in Q16.16 (R50; log 11). -/
  clkIn : S32
  /-- The sequence-advance trigger level, in Q16.16 (R50; log 11). -/
  trigIn : S32
  /-- The live sample rate in hertz (R50). -/
  sr : U32
deriving DecidableEq, Repr

/-- The parameter registers after reset (R253). -/
def resetParams : Vector S16 12 := #v[0, 0, 0, 0, 0, 0, 0, 128, 0, 1, 0, 1]

/-- Reset of one instance, from the generator's state `rng`: the identity is shuffled once, the rest is as R252 to
R254 say. The result is the generator's state afterwards and the instance's record. -/
def resetInst (cfg : Config) (rng : U32) : U32 × GenInst :=
  ((shuffleOrder cfg rng identityOrder).1,
    { order := (shuffleOrder cfg rng identityOrder).2
      cursor := 0
      lines := Vector.replicate 6 false
      clkPrev := false
      iseqPos := 0
      trigPrev := false
      divOut := false
      params := resetParams
      outRaw := 0
      outQuant := 0
      outIseq := 0
      outNoise := 0 })

/-- Reset of `n` instances in ascending order, sharing the generator (R252). -/
def resetInsts (cfg : Config) : Nat → U32 → U32 × List GenInst
  | 0, rng => (rng, [])
  | n + 1, rng =>
    ((resetInsts cfg n (resetInst cfg rng).1).1,
      (resetInst cfg rng).2 :: (resetInsts cfg n (resetInst cfg rng).1).2)

/-- The singletons after reset, for the generator's state `rng` that the construction shuffles leave (R251, R252). -/
def resetShared (rng : U32) : Shared :=
  { rng := rng, pink := Vector.replicate 3 0, brown := 0, bluePrev := 0, divcnt := 0 }

/-- Input ports with nothing presented. -/
def quietPorts : InPorts :=
  { rst := false, cmdValid := false, cmd := 0, clkIn := 0, trigIn := 0, sr := 0 }

end Sys2Proof.Machine
end

