-- ==== Sys2Proof/Machine/State.lean ====
section
/-! DEFINITION. The state of the block as plain data (spec/10_state.md R20), the reasons a step can stop, and the
state right after reset (spec/70_reset_and_hazards.md R250 to R254). `inp`, `host` and `ret` are the model's own
fields (log 5, log 8); every other field is the spec's. There is no byte-addressed memory (R66, log 20). -/

namespace Sys2Proof.Machine

/-- Why an operation stops. The block itself never faults (R230); neither reason can be met by `step` from reset. -/
inductive Fault where
  /-- Raised by DRAW, and by a STEP that draws, when CURSOR is above 63: ORDER has no such address (R61). Safe: R27 and
  R52 keep CURSOR in 0..63 between commands, so no run reaches it (log 10). -/
  | orderAddress
  /-- Raised by an internal operation run on its own for an instance the block does not have. Safe: STEP and reset never
  run one so (R95, log 9). -/
  | noInstance
deriving DecidableEq, Repr

/-- Why an operation is refused. -/
inductive Refusal where
  /-- The instruction has no meaning in the model yet. Raised by no arm of `exec`: every row is modelled. Safe. -/
  | notModelled (mnemonic : String)
deriving DecidableEq, Repr

/-- What the last internal operation run on its own returned (log 8). No rule reads it. -/
inductive Ret where
  /-- Nothing was returned. -/
  | none
  /-- An integer: RAND, ISEQ.OFF.LOOP, ISEQ.OFF.PEND. -/
  | int (v : Int)
  /-- A real value: HEXCV, QUANT, ISEQ.VAL, WHITE and the four filters. -/
  | real (v : REAL)
  /-- A list of offsets: SCALE. -/
  | offsets (l : List REAL)
  /-- A bit: EDGE. -/
  | bit (b : Bool)
deriving DecidableEq, Repr

/-- The state: the singletons, the instance records in ascending order, the command shell (R20), and the model's own
fields. -/
structure State where
  shared : Shared
  insts : List GenInst
  /-- RD_DATA (R36). -/
  rdData : U16
  /-- CMD_ERR (R37). -/
  cmdErr : Bool
  /-- The input ports as the command being executed samples them (R50, R51). -/
  inp : InPorts
  /-- What the host presents next, oldest first (R6, R271). -/
  host : List InPorts
  /-- The value returned by the last internal operation run on its own. -/
  ret : Ret
deriving DecidableEq, Repr

/-- The state after reset under a configuration (R250 to R254): the singletons, the N_INST instances in ascending
order, outputs and shell. -/
def State.resetWith (cfg : Config) : State :=
  { shared := resetShared (resetInsts cfg cfg.nInst cfg.seed).1
    insts := (resetInsts cfg cfg.nInst cfg.seed).2
    rdData := 0
    cmdErr := false
    inp := quietPorts
    host := []
    ret := .none }

/-- The machine right after reset. -/
def State.reset : State := State.resetWith Config.chip

end Sys2Proof.Machine
end

