-- ==== Sys2Proof/Machine/Arith.lean ====
section
/-! DEFINITION. Integer division, rounding and the real helpers of spec/00_scope.md R13 to R15. -/

namespace Sys2Proof.Machine

/-- `emod(a, n)` for n > 0: the floored remainder, 0 <= r < n (R13). -/
def emod (a n : Int) : Int := a % n

/-- `efloor_div(a, n)` for n > 0: floor(a / n) (R13). -/
def efloorDiv (a n : Int) : Int := a / n

/-- `trem(a, n)` for n ≠ 0: the truncated remainder, with the sign of `a` (R13). -/
def trem (a n : Int) : Int := a.tmod n

/-- `round_haz(x)`: the nearest integer, a tie going away from zero (R14). -/
def roundHaz (x : REAL) : Int :=
  if 0 ≤ x then (x + 1 / 2).floor else -((-x + 1 / 2).floor)

/-- `abs(x)` (R15). -/
def rabs (x : REAL) : REAL := if 0 ≤ x then x else -x

/-- `rmod12(x) = x - 12·floor(x/12)`, in [0, 12) (R15). -/
def rmod12 (x : REAL) : REAL := x - 12 * ((x / 12).floor : REAL)

/-- The nearest integer, a tie going to the even neighbour (the default OUT_FMT of R50). -/
def roundHalfEven (x : REAL) : Int :=
  let n := x.floor
  let d := x - (n : REAL)
  if d < 1 / 2 then n
  else if 1 / 2 < d then n + 1
  else if n % 2 = 0 then n
  else n + 1

/-- The value of a Q16.16 input word, converted exactly: word / 65536 (R50). -/
def q16Value (w : S32) : REAL := (w.toInt : REAL) / 65536

/-- The default output port format of R50: Q16.16, round to nearest ties to even, saturating; as the value the port
carries. -/
def q16Out (x : REAL) : REAL :=
  ((max (-(2 : Int) ^ 31) (min ((2 : Int) ^ 31 - 1) (roundHalfEven (x * 65536))) : Int) : REAL) / 65536

end Sys2Proof.Machine
end

