-- ==== Sys2Proof/Machine/Tables.lean ====
section
/-! DEFINITION. The constant storage spaces STD_SCALE, EXOTIC and ISEQ_TABLE (spec/20_memory.md R60, R62 to R64)
and the two configuration maps with a stated range, WHITE and TWO_PI (spec/00_scope.md R8). An accessor takes the
configuration's raw data to a value that meets the constraint R8 states; every admissible value is reached (log 3). -/

namespace Sys2Proof.Machine

/-- The running maximum of a list, from `m` on: the list itself when it is non-decreasing and starts at `m` or above. -/
def runMaxInt (m : Int) : List Int → List Int
  | [] => []
  | x :: xs => max m x :: runMaxInt (max m x) xs

/-- The running maximum of a list of reals, from `m` on. -/
def runMaxReal (m : REAL) : List REAL → List REAL
  | [] => []
  | x :: xs => max m x :: runMaxReal (max m x) xs

/-- A standard scale's offsets: 5 to 8 integers, non-negative, non-decreasing, the last 12 (R8, R62, R143). -/
def stdScaleList (r : RawStdScale) : List Int :=
  runMaxInt 0 ((r.degrees.toList.take (4 + r.extra.val)).map fun d => (d.val : Int)) ++ [12]

/-- An exotic row's 20 offsets: the populated ones non-negative and non-decreasing, the rest 0 (R8, R63). -/
def exoticList (r : RawExotic) : List REAL :=
  runMaxReal 0 (r.slots.toList.take r.populated.val) ++ List.replicate (20 - r.populated.val) 0

/-- Read STD_SCALE: the whole list of a standard index (R62). -/
def readStdScale (cfg : Config) (s : Fin 16) : List REAL :=
  (stdScaleList (cfg.stdScale s)).map fun o : Int => (o : REAL)

/-- Read EXOTIC: the 20 offsets of a row, the row of index 16 numbered 0 (R63). -/
def readExotic (cfg : Config) (s : Fin 117) : List REAL := exoticList (cfg.exotic s)

/-- Read ISEQ_TABLE: entry `a` of table `sel`, as a signed integer (R64). -/
def readIseqTable (cfg : Config) (sel : Fin 10) (a : Fin 128) : Int := (cfg.iseqTable sel a).toInt

/-- The configuration map WHITE: [0, 2^32) → [-1, 1] (R8, R180). -/
def whiteMap (cfg : Config) (r : U32) : REAL := max (-1) (min 1 (cfg.whiteRaw r))

/-- TWO_PI, a positive real (R8, R188). -/
def twoPi (cfg : Config) : REAL := ((cfg.twoPiNum : REAL) + 1) / ((cfg.twoPiDen : REAL) + 1)

end Sys2Proof.Machine
end

