-- ==== Sys2Proof/Syntax.lean ====
section
/-! DEFINITION. The operations of ICR-CORE: one constructor for each row of spec/opcode_table.json, the five host
commands of format H (spec/30_encoding.md R83) and the eighteen internal operations (R95), with the operands the
table gives each row. -/

namespace Sys2Proof

/-- The two level inputs that EDGE watches, each with its own latch (R200: CLK_PREV or TRIG_PREV). -/
inductive EdgeInput where
  | clk
  | trig
deriving DecidableEq, Repr

/-- The twelve parameter registers, in the order of R84. -/
inductive Param where
  | scale
  | root
  | transpose
  | maskRot
  | iseqSel
  | iseqMod
  | iseqStart
  | iseqLen
  | iseqDir
  | iseqStride
  | noiseType
  | clkDiv
deriving DecidableEq, Repr

/-- The operations. An operand `n` is an instance number; port values are not operands of a command (R82). -/
inductive Instr where
  /-- NOP (R110). -/
  | nop
  /-- STEP inst: one audio sample (R215). -/
  | step (n : U4)
  /-- WRPARAM inst, idx, imm (R111). -/
  | wrparam (n : U4) (idx : U8) (imm : S16)
  /-- RDPARAM inst, idx (R112). -/
  | rdparam (n : U4) (idx : U8)
  /-- RDHEX inst (R113). -/
  | rdhex (n : U4)
  /-- RAND (R120). -/
  | rand
  /-- SHUFFLE i (R122). -/
  | shuffle (n : U4)
  /-- DRAW i (R124). -/
  | draw (n : U4)
  /-- HEXCV i (R128). -/
  | hexcv (n : U4)
  /-- SCALE s (R140). -/
  | scale (s : S16)
  /-- QUANT v, s, root, tr, mr (R144). -/
  | quant (v : REAL) (s root tr mr : S16)
  /-- ISEQ.OFF.LOOP pos, start, len, stride (R160). -/
  | iseqOffLoop (pos : U32) (start len stride : S16)
  /-- ISEQ.OFF.PEND pos, start, len, stride (R162). -/
  | iseqOffPend (pos : U32) (start len stride : S16)
  /-- ISEQ.VAL i (R164). -/
  | iseqVal (n : U4)
  /-- ISEQ.ADV i (R168). -/
  | iseqAdv (n : U4)
  /-- WHITE (R180). -/
  | white
  /-- NOISE.WHITE w (R182). -/
  | noiseWhite (w : REAL)
  /-- NOISE.PINK w (R184). -/
  | noisePink (w : REAL)
  /-- NOISE.BROWN w (R186). -/
  | noiseBrown (w : REAL)
  /-- NOISE.BLUE w, sr (R188). -/
  | noiseBlue (w : REAL) (sr : U32)
  /-- NOISE i (R190). -/
  | noise (n : U4)
  /-- EDGE level, PREV: the latch is the one of input `input` of instance `n` (R200). -/
  | edge (n : U4) (input : EdgeInput) (level : REAL)
  /-- DIVIDE i (R204). -/
  | divide (n : U4)
deriving DecidableEq, Repr

/-- The row's mnemonic in spec/opcode_table.json. -/
def Instr.mnemonic : Instr → String
  | .nop => "NOP"
  | .step _ => "STEP"
  | .wrparam _ _ _ => "WRPARAM"
  | .rdparam _ _ => "RDPARAM"
  | .rdhex _ => "RDHEX"
  | .rand => "RAND"
  | .shuffle _ => "SHUFFLE"
  | .draw _ => "DRAW"
  | .hexcv _ => "HEXCV"
  | .scale _ => "SCALE"
  | .quant _ _ _ _ _ => "QUANT"
  | .iseqOffLoop _ _ _ _ => "ISEQ.OFF.LOOP"
  | .iseqOffPend _ _ _ _ => "ISEQ.OFF.PEND"
  | .iseqVal _ => "ISEQ.VAL"
  | .iseqAdv _ => "ISEQ.ADV"
  | .white => "WHITE"
  | .noiseWhite _ => "NOISE.WHITE"
  | .noisePink _ => "NOISE.PINK"
  | .noiseBrown _ => "NOISE.BROWN"
  | .noiseBlue _ _ => "NOISE.BLUE"
  | .noise _ => "NOISE"
  | .edge _ _ _ => "EDGE"
  | .divide _ => "DIVIDE"

/-- The instance number an operation names, if it names one. -/
def Instr.inst? : Instr → Option U4
  | .nop => none
  | .step n => some n
  | .wrparam n _ _ => some n
  | .rdparam n _ => some n
  | .rdhex n => some n
  | .rand => none
  | .shuffle n => some n
  | .draw n => some n
  | .hexcv n => some n
  | .scale _ => none
  | .quant _ _ _ _ _ => none
  | .iseqOffLoop _ _ _ _ => none
  | .iseqOffPend _ _ _ _ => none
  | .iseqVal n => some n
  | .iseqAdv n => some n
  | .white => none
  | .noiseWhite _ => none
  | .noisePink _ => none
  | .noiseBrown _ => none
  | .noiseBlue _ _ => none
  | .noise n => some n
  | .edge n _ _ => some n
  | .divide n => some n

/-- The parameter index an operation names, if it names one. -/
def Instr.idx? : Instr → Option U8
  | .nop => none
  | .step _ => none
  | .wrparam _ idx _ => some idx
  | .rdparam _ idx => some idx
  | .rdhex _ => none
  | .rand => none
  | .shuffle _ => none
  | .draw _ => none
  | .hexcv _ => none
  | .scale _ => none
  | .quant _ _ _ _ _ => none
  | .iseqOffLoop _ _ _ _ => none
  | .iseqOffPend _ _ _ _ => none
  | .iseqVal _ => none
  | .iseqAdv _ => none
  | .white => none
  | .noiseWhite _ => none
  | .noisePink _ => none
  | .noiseBrown _ => none
  | .noiseBlue _ _ => none
  | .noise _ => none
  | .edge _ _ _ => none
  | .divide _ => none

end Sys2Proof
end

