-- ==== Sys2Proof/Machine/Operands.lean ====
section
/-! DEFINITION. The operand forms: instance numbers, parameter indices and parameter registers (spec/30_encoding.md
R81, R82, R84; spec/20_memory.md R65), ORDER entries (R61), the hexagram of the lines (spec/10_state.md R28). -/

namespace Sys2Proof.Machine

/-- The index of a parameter register (R84). -/
def paramIndex : Param → Fin 12
  | .scale => 0
  | .root => 1
  | .transpose => 2
  | .maskRot => 3
  | .iseqSel => 4
  | .iseqMod => 5
  | .iseqStart => 6
  | .iseqLen => 7
  | .iseqDir => 8
  | .iseqStride => 9
  | .noiseType => 10
  | .clkDiv => 11

/-- `P[i][k]` read as S16 (R12, R40). -/
def GenInst.p (g : GenInst) (k : Param) : Int := (g.params[paramIndex k]).toInt

/-- Read parameter register `idx`, defined for 0..11 (R65). -/
def GenInst.readParam (g : GenInst) (idx : U8) : Option S16 := g.params[idx.toNat]?

/-- Write parameter register `idx`, defined for 0..11 (R65): the 16 bits as given (R40). -/
def GenInst.writeParam (g : GenInst) (idx : U8) (v : S16) : Option GenInst :=
  if h : idx.toNat < 12 then some { g with params := g.params.set idx.toNat v h } else none

/-- Read ORDER at address `a`, defined for 0..63 (R61). -/
def GenInst.readOrder (g : GenInst) (a : Nat) : Option U6 := g.order[a]?

/-- The six lines of a hexagram: line b is bit b (R88). -/
def linesOf (h : U6) : Vector Bool 6 := Vector.ofFn fun b => h.getLsbD b.val

/-- HEXVAL of six lines: the sum of line b times 2^b (R28). -/
def hexOf (l : Vector Bool 6) : U6 :=
  BitVec.ofNat 6 (l[0].toNat + 2 * l[1].toNat + 4 * l[2].toNat + 8 * l[3].toNat + 16 * l[4].toNat + 32 * l[5].toNat)

/-- HEXVAL[i], the current hexagram number (R28). -/
def GenInst.hexval (g : GenInst) : U6 := hexOf g.lines

/-- The record of instance `n`, if the block has it: `inst` < N_INST (R81; log 4). -/
def State.inst? (s : State) (n : U4) : Option GenInst := s.insts[n.toNat]?

/-- N_INST as the state shows it: one record for each instance (R20; log 4). -/
def State.nInst (s : State) : Nat := s.insts.length

end Sys2Proof.Machine
end

