-- ==== Sys2Proof/Machine/Flags.lean ====
section
/-! DEFINITION. The one-bit status state (spec/10_state.md R34): CMD_ERR and the thresholded levels of the two
inputs. There are no arithmetic condition codes (R34). -/

namespace Sys2Proof.Machine

/-- An accepted command sets CMD_ERR to 0 (R37, R86). -/
def State.accepted (s : State) : State := { s with cmdErr := false }

/-- A word that is not accepted sets CMD_ERR to 1 and changes no other state (R37, R86, R115). -/
def State.notAccepted (s : State) : State := { s with cmdErr := true }

/-- The logic level of an input: high when strictly above 1.0 (R93). -/
def isHigh (level : REAL) : Bool := decide (thresh < level)

/-- Rising edge: current high and previous low (R200). -/
def isRise (high prev : Bool) : Bool := high && !prev

end Sys2Proof.Machine
end

