-- ==== Sys2Proof/Machine/Ops.lean ====
section
/-! DEFINITION. The named operations over the state. `Reach` is all that an operation of one instance can reach: the
singletons and that instance's record (spec/10_state.md R20, "A step of instance i may write every singleton and
only instance i's record"). The block takes no exception and has none to return from (spec/60_exceptions.md R230,
R237): the one thing that takes the place of an exception is a word that is not accepted, `State.notAccepted`. -/

namespace Sys2Proof.Machine

/-- The singletons and one instance's record (R20). -/
structure Reach where
  shared : Shared
  inst : GenInst
deriving DecidableEq, Repr

/-- What operations of instance `n` reach, if the block has it. -/
def State.reach? (s : State) (n : U4) : Option Reach :=
  match s.inst? n with
  | some g => some ⟨s.shared, g⟩
  | none => none

/-- Write back what operations of instance `n` reached. -/
def State.putReach (s : State) (n : U4) (r : Reach) : State :=
  { s with shared := r.shared, insts := s.insts.set n.toNat r.inst }

/-- Write one instance's record. -/
def State.putInst (s : State) (n : U4) (g : GenInst) : State :=
  { s with insts := s.insts.set n.toNat g }

/-- Record what an internal operation run on its own returned (log 8). -/
def State.withRet (s : State) (v : Ret) : State := { s with ret := v }

/-- Run an internal operation of instance `n` on its own: its effect on what it reaches, and the value it returns. -/
def runOn (n : U4) (s : State) (op : Reach → Option (Reach × Ret)) : Host.Outcome State Fault Refusal :=
  match s.reach? n with
  | none => .fault .noInstance
  | some r =>
    match op r with
    | none => .fault .orderAddress
    | some (r', v) => .next ((s.putReach n r').withRet v)

/-- Run an internal operation that only computes a value (R51: a temporary; log 8). -/
def returning (v : Ret) (s : State) : Host.Outcome State Fault Refusal := .next (s.withRet v)

end Sys2Proof.Machine
end

