-- ==== Sys2Proof/Machine/ClockEdge.lean ====
section
/-! DEFINITION. The clock/edge engine: EDGE, DIVIDE (spec/45_clock_edge.md). -/

namespace Sys2Proof.Machine

/-- The latch of an input (R29, R30). -/
def GenInst.prev (g : GenInst) : EdgeInput → Bool
  | .clk => g.clkPrev
  | .trig => g.trigPrev

/-- Write the latch of an input (R29, R30). -/
def GenInst.setPrev (g : GenInst) (input : EdgeInput) (high : Bool) : GenInst :=
  match input with
  | .clk => { g with clkPrev := high }
  | .trig => { g with trigPrev := high }

/-- EDGE's result `rise` (R200). -/
def riseOf (input : EdgeInput) (level : REAL) (g : GenInst) : Bool := isRise (isHigh level) (g.prev input)

/-- EDGE's effect: the latch takes the current level (R200). -/
def edgeOp (input : EdgeInput) (level : REAL) (r : Reach) : Reach :=
  { r with inst := r.inst.setPrev input (isHigh level) }

/-- DIVIDE i (R204): the count rises; at the factor or above, the output goes high and the count returns to 0. The sum
and the comparison are in the integers (R11, log 15). -/
def divideOp (r : Reach) : Reach :=
  if r.inst.p .clkDiv ≤ (r.shared.divcnt.toNat : Int) + 1 then
    { shared := { r.shared with divcnt := 0 }, inst := { r.inst with divOut := true } }
  else
    { shared := { r.shared with divcnt := r.shared.divcnt + 1 }, inst := { r.inst with divOut := false } }

/-- EDGE on its own (R200). -/
def execEdge (n : U4) (input : EdgeInput) (level : REAL) (s : State) : Host.Outcome State Fault Refusal :=
  runOn n s fun r => some (edgeOp input level r, .bit (riseOf input level r.inst))

/-- DIVIDE i on its own (R204). -/
def execDivide (n : U4) (s : State) : Host.Outcome State Fault Refusal :=
  runOn n s fun r => some (divideOp r, .none)

end Sys2Proof.Machine
end

