-- ==== Sys2Proof/Machine/Noise.lean ====
section
/-! DEFINITION. The noise bank: WHITE, NOISE.WHITE, NOISE.PINK, NOISE.BROWN, NOISE.BLUE, NOISE
(spec/44_noise_bank.md). The filters' state is in the singletons, shared by all instances. -/

namespace Sys2Proof.Machine

/-- WHITE: one RAND, mapped to [-1, 1] (R180). -/
def whiteOp (cfg : Config) (h : Shared) : Shared × REAL :=
  ({ h with rng := (rand cfg h.rng).1 }, whiteMap cfg (BitVec.ofNat 32 (rand cfg h.rng).2))

/-- NOISE.WHITE w: the sample itself; no filter state (R182). -/
def noiseWhiteOp (w : REAL) (h : Shared) : Shared × REAL := (h, w)

/-- One pole of the pink filter after a sample (R184). -/
def pinkPole (cfg : Config) (w : REAL) (h : Shared) (k : Fin 3) : REAL :=
  cfg.pinkLeak k * h.pink[k] + cfg.pinkGain k * w

/-- NOISE.PINK w: the three poles move, then the new poles are summed with a part of the input (R184). -/
def noisePinkOp (cfg : Config) (w : REAL) (h : Shared) : Shared × REAL :=
  ({ h with pink := Vector.ofFn (pinkPole cfg w h) },
    cfg.pinkW 0 * pinkPole cfg w h 0 + cfg.pinkW 1 * pinkPole cfg w h 1 + cfg.pinkW 2 * pinkPole cfg w h 2
      + cfg.pinkDirect * w)

/-- NOISE.BROWN w: one leaky pole, never clipped (R186). -/
def noiseBrownOp (cfg : Config) (w : REAL) (h : Shared) : Shared × REAL :=
  ({ h with brown := cfg.brownLeak * h.brown + cfg.brownGain * w },
    cfg.brownOut * (cfg.brownLeak * h.brown + cfg.brownGain * w))

/-- The blue filter's alpha = sr / (sr + TWO_PI · 100) (R188). -/
def blueAlpha (cfg : Config) (sr : U32) : REAL := (sr.toNat : REAL) / ((sr.toNat : REAL) + twoPi cfg * blueFc)

/-- NOISE.BLUE w, sr: the original's scaled pass-through; the register takes the pre-filter input (R188). -/
def noiseBlueOp (cfg : Config) (w : REAL) (sr : U32) (h : Shared) : Shared × REAL :=
  ({ h with bluePrev := w }, blueAlpha cfg sr * w)

/-- The filter that NOISE_TYPE selects, on the white sample `w`; 0 and no filter state outside 0..3 (R190). -/
def filterOp (cfg : Config) (typ : Int) (sr : U32) (w : REAL) (h : Shared) : Shared × REAL :=
  if typ = 0 then noiseWhiteOp w h
  else if typ = 1 then noisePinkOp cfg w h
  else if typ = 2 then noiseBrownOp cfg w h
  else if typ = 3 then noiseBlueOp cfg w sr h
  else (h, 0)

/-- NOISE i: the white sample always, then the selected filter; writes OUT_NOISE[i] (R190). -/
def noiseOp (cfg : Config) (sr : U32) (r : Reach) : Reach :=
  let ws := whiteOp cfg r.shared
  let f := filterOp cfg (r.inst.p .noiseType) sr ws.2 ws.1
  { shared := f.1, inst := { r.inst with outNoise := f.2 } }

/-- WHITE on its own (R180). -/
def execWhite (s : State) : Host.Outcome State Fault Refusal :=
  .next (({ s with shared := (whiteOp Config.chip s.shared).1 }).withRet (.real (whiteOp Config.chip s.shared).2))

/-- NOISE.WHITE w on its own (R182). -/
def execNoiseWhite (w : REAL) (s : State) : Host.Outcome State Fault Refusal :=
  .next (({ s with shared := (noiseWhiteOp w s.shared).1 }).withRet (.real (noiseWhiteOp w s.shared).2))

/-- NOISE.PINK w on its own (R184). -/
def execNoisePink (w : REAL) (s : State) : Host.Outcome State Fault Refusal :=
  .next (({ s with shared := (noisePinkOp Config.chip w s.shared).1 }).withRet
    (.real (noisePinkOp Config.chip w s.shared).2))

/-- NOISE.BROWN w on its own (R186). -/
def execNoiseBrown (w : REAL) (s : State) : Host.Outcome State Fault Refusal :=
  .next (({ s with shared := (noiseBrownOp Config.chip w s.shared).1 }).withRet
    (.real (noiseBrownOp Config.chip w s.shared).2))

/-- NOISE.BLUE w, sr on its own (R188). -/
def execNoiseBlue (w : REAL) (sr : U32) (s : State) : Host.Outcome State Fault Refusal :=
  .next (({ s with shared := (noiseBlueOp Config.chip w sr s.shared).1 }).withRet
    (.real (noiseBlueOp Config.chip w sr s.shared).2))

/-- NOISE i on its own, with the port value `sr` (R190). -/
def execNoise (n : U4) (s : State) : Host.Outcome State Fault Refusal :=
  runOn n s fun r => some (noiseOp Config.chip s.inp.sr r, .real (noiseOp Config.chip s.inp.sr r).inst.outNoise)

end Sys2Proof.Machine
end

