-- ==== Sys2Proof/Machine/Scheduler.lean ====
section
/-! DEFINITION. The hexagram scheduler: RAND, SHUFFLE, DRAW, HEXCV (spec/41_hexagram_scheduler.md). -/

namespace Sys2Proof.Machine

/-- SHUFFLE i: ORDER[i] and RNG (R122). -/
def shuffleOp (cfg : Config) (r : Reach) : Reach :=
  { shared := { r.shared with rng := (shuffleOrder cfg r.shared.rng r.inst.order).1 }
    inst := { r.inst with order := (shuffleOrder cfg r.shared.rng r.inst.order).2 } }

/-- DRAW i (R124): read ORDER[i] at the cursor, put its bits on the lines, raise the cursor; when it reaches 64,
shuffle and return it to 0. No result where the cursor is no address of ORDER (R61, log 10). -/
def drawOp (cfg : Config) (r : Reach) : Option Reach :=
  match r.inst.readOrder r.inst.cursor.toNat with
  | none => none
  | some h =>
    if r.inst.cursor.toNat + 1 = 64 then
      let r' := shuffleOp cfg { r with inst := { r.inst with lines := linesOf h } }
      some { r' with inst := { r'.inst with cursor := 0 } }
    else
      some { r with inst := { r.inst with lines := linesOf h, cursor := r.inst.cursor + 1 } }

/-- HEXCV i: `OUT_RAW[i] <- HEX_CV(HEXVAL[i])` (R128). -/
def hexcvOp (cfg : Config) (r : Reach) : Reach :=
  { r with inst := { r.inst with outRaw := cfg.hexCv r.inst.hexval } }

/-- RAND on its own (R120). -/
def execRand (s : State) : Host.Outcome State Fault Refusal :=
  .next (({ s with shared := { s.shared with rng := (rand Config.chip s.shared.rng).1 } }).withRet
    (.int (rand Config.chip s.shared.rng).2))

/-- SHUFFLE i on its own (R122). -/
def execShuffle (n : U4) (s : State) : Host.Outcome State Fault Refusal :=
  runOn n s fun r => some (shuffleOp Config.chip r, .none)

/-- DRAW i on its own (R124). -/
def execDraw (n : U4) (s : State) : Host.Outcome State Fault Refusal :=
  runOn n s fun r => (drawOp Config.chip r).map fun r' => (r', .none)

/-- HEXCV i on its own: writes OUT_RAW[i] and returns it (R128). -/
def execHexcv (n : U4) (s : State) : Host.Outcome State Fault Refusal :=
  runOn n s fun r => some (hexcvOp Config.chip r, .real (hexcvOp Config.chip r).inst.outRaw)

end Sys2Proof.Machine
end

