-- ==== Sys2Proof/Machine/Quantizer.lean ====
section
/-! DEFINITION. The scale database and the pitch quantizer: SCALE, QUANT (spec/42_quantizer.md). Neither reads or
writes any state; a parameter operand is the value of its S16 register. -/

namespace Sys2Proof.Machine

/-- SCALE s (R140): a standard list, an exotic row of exactly 20 offsets, or the empty list. -/
def scaleOf (cfg : Config) (s : Int) : List REAL :=
  if h : 0 ≤ s ∧ s ≤ 15 then readStdScale cfg ⟨s.toNat, by omega⟩
  else if h : 16 ≤ s ∧ s ≤ 132 then readExotic cfg ⟨(s - 16).toNat, by omega⟩
  else []

/-- The degree found so far by QUANT's search: its distance (none is +infinity) and its offset (R144). -/
structure Best where
  dist : Option REAL
  chosen : REAL
deriving DecidableEq, Repr

/-- The distance of an offset from the target class: plain, not around the circle (R144, R145). -/
def classDist (tc mr : Int) (o : REAL) : REAL := rabs (rmod12 (o + mr) - tc)

/-- One iteration of the search: strictly nearer wins, so the first of equal distances stays (R144). -/
def searchStep (tc mr : Int) (b : Best) (o : REAL) : Best :=
  match b.dist with
  | none => ⟨some (classDist tc mr o), o⟩
  | some d => if classDist tc mr o < d then ⟨some (classDist tc mr o), o⟩ else b

/-- The offset QUANT chooses; 0, the sentinel degree, for an empty scale (R142, R144). -/
def chosenOffset (l : List REAL) (tc mr : Int) : REAL :=
  (l.foldl (searchStep tc mr) ⟨none, 0⟩).chosen

/-- QUANT's target semitone (R144). -/
def targetSemitone (v : REAL) (root tr : Int) : Int := roundHaz (12 * v) + root + tr

/-- QUANT v, s, root, tr, mr (R144). -/
def quantOf (cfg : Config) (v : REAL) (s root tr mr : Int) : REAL :=
  (12 * (efloorDiv (targetSemitone v root tr) 12 : REAL)
    + chosenOffset (scaleOf cfg s) (emod (targetSemitone v root tr) 12) mr) / 12

/-- QUANT with the instance's SCALE, ROOT, TRANSPOSE, MASK_ROT: both uses inside a STEP take the same four (R42). -/
def GenInst.quantize (cfg : Config) (g : GenInst) (v : REAL) : REAL :=
  quantOf cfg v (g.p .scale) (g.p .root) (g.p .transpose) (g.p .maskRot)

/-- Line 4 of STEP: the raw value quantized, written to OUT_QUANT[i] (R215). -/
def quantRawOp (cfg : Config) (r : Reach) : Reach :=
  { r with inst := { r.inst with outQuant := r.inst.quantize cfg r.inst.outRaw } }

/-- SCALE s on its own (R140). -/
def execScale (x : S16) (s : State) : Host.Outcome State Fault Refusal :=
  returning (.offsets (scaleOf Config.chip x.toInt)) s

/-- QUANT on its own (R144). -/
def execQuant (v : REAL) (x root tr mr : S16) (s : State) : Host.Outcome State Fault Refusal :=
  returning (.real (quantOf Config.chip v x.toInt root.toInt tr.toInt mr.toInt)) s

end Sys2Proof.Machine
end

