-- ==== Sys2Proof/Machine/Sequence.lean ====
section
/-! DEFINITION. The integer-sequence player: ISEQ.OFF.LOOP, ISEQ.OFF.PEND, ISEQ.VAL, ISEQ.ADV
(spec/43_integer_sequence.md). All arithmetic is in the integers (R11, decision D18). -/

namespace Sys2Proof.Machine

/-- ISEQ.OFF.LOOP (R160): the stride multiplies before the reduction. -/
def offLoop (pos start len stride : Int) : Int :=
  if len ≤ 0 then start
  else if 0 ≤ pos * stride then start + emod (pos * stride) len
  else start + trem (pos * stride) len

/-- ISEQ.OFF.PEND (R162): the stride multiplies the folded position. -/
def offPend (pos start len stride : Int) : Int :=
  if len ≤ 1 then start
  else
    let cycle := 2 * len - 2
    let p := emod pos cycle
    if len ≤ p then start + (cycle - p) * stride else start + p * stride

/-- The offset in the direction `dir`: pendulum if 1, else loop (R91, R164). -/
def seqOffset (dir pos start len stride : Int) : Int :=
  if dir = 1 then offPend pos start len stride else offLoop pos start len stride

/-- The table address of an offset: wrapped into 0..127 (R164). -/
def tableAddr (off : Int) : Fin 128 :=
  ⟨(emod off 128).toNat, by unfold emod; omega⟩

/-- The raw value: the entry read, or 0 with no read for a selector outside 0..9 (R64, R164). -/
def rawValue (cfg : Config) (sel off : Int) : Int :=
  if h : 0 ≤ sel ∧ sel ≤ 9 then readIseqTable cfg ⟨sel.toNat, by omega⟩ (tableAddr off) else 0

/-- The reduction by ISEQ_MOD: only above 1, with the sign of the value (R164). -/
def reduceMod (raw m : Int) : Int := if 1 < m then trem raw m else raw

/-- The pitch class: the truncated remainder by 12, corrected by adding 12 when negative (R164). -/
def pitchClass (v : Int) : Int := if trem v 12 < 0 then trem v 12 + 12 else trem v 12

/-- The pitch class of the player's current value (R164, up to the quantizer). -/
def GenInst.seqClass (cfg : Config) (g : GenInst) : Int :=
  pitchClass (reduceMod
    (rawValue cfg (g.p .iseqSel)
      (seqOffset (g.p .iseqDir) g.iseqPos.toNat (g.p .iseqStart) (g.p .iseqLen) (g.p .iseqStride)))
    (g.p .iseqMod))

/-- ISEQ.VAL i: writes OUT_ISEQ[i] (R164). -/
def iseqValOp (cfg : Config) (r : Reach) : Reach :=
  { r with inst := { r.inst with outIseq := r.inst.quantize cfg ((r.inst.seqClass cfg : REAL) / 12) } }

/-- ISEQ.ADV i: the position rises by 1 modulo 2^32 (R168). -/
def iseqAdvOp (r : Reach) : Reach :=
  { r with inst := { r.inst with iseqPos := r.inst.iseqPos + 1 } }

/-- ISEQ.OFF.LOOP on its own (R160). -/
def execIseqOffLoop (pos : U32) (start len stride : S16) (s : State) : Host.Outcome State Fault Refusal :=
  returning (.int (offLoop pos.toNat start.toInt len.toInt stride.toInt)) s

/-- ISEQ.OFF.PEND on its own (R162). -/
def execIseqOffPend (pos : U32) (start len stride : S16) (s : State) : Host.Outcome State Fault Refusal :=
  returning (.int (offPend pos.toNat start.toInt len.toInt stride.toInt)) s

/-- ISEQ.VAL i on its own: writes OUT_ISEQ[i] and returns it (R164). -/
def execIseqVal (n : U4) (s : State) : Host.Outcome State Fault Refusal :=
  runOn n s fun r => some (iseqValOp Config.chip r, .real (iseqValOp Config.chip r).inst.outIseq)

/-- ISEQ.ADV i on its own (R168). -/
def execIseqAdv (n : U4) (s : State) : Host.Outcome State Fault Refusal :=
  runOn n s fun r => some (iseqAdvOp r, .none)

end Sys2Proof.Machine
end

