-- ==== Sys2Proof/Machine/Frame.lean ====
section
/-! DEFINITION. The frame orchestrator: STEP (spec/46_frame_step.md R215). -/

namespace Sys2Proof.Machine

/-- Lines 1, 2, 2a, 2b of STEP: EDGE on the main clock; on a rising edge DRAW, then DIVIDE (R215). -/
def clockPhase (cfg : Config) (p : InPorts) (r : Reach) : Option Reach :=
  if riseOf .clk (q16Value p.clkIn) r.inst then
    (drawOp cfg (edgeOp .clk (q16Value p.clkIn) r)).map divideOp
  else some (edgeOp .clk (q16Value p.clkIn) r)

/-- Lines 5, 6, 6a of STEP: EDGE on the trigger; on a rising edge ISEQ.ADV (R215). -/
def triggerPhase (p : InPorts) (r : Reach) : Reach :=
  if riseOf .trig (q16Value p.trigIn) r.inst then iseqAdvOp (edgeOp .trig (q16Value p.trigIn) r)
  else edgeOp .trig (q16Value p.trigIn) r

/-- Lines 3 to 8 of STEP: HEXCV, QUANT, the trigger, ISEQ.VAL, NOISE (R215). -/
def samplePhase (cfg : Config) (p : InPorts) (r : Reach) : Reach :=
  noiseOp cfg p.sr (iseqValOp cfg (triggerPhase p (quantRawOp cfg (hexcvOp cfg r))))

/-- One audio sample of one instance (R215). -/
def frameOp (cfg : Config) (p : InPorts) (r : Reach) : Option Reach :=
  (clockPhase cfg p r).map (samplePhase cfg p)

/-- STEP inst under a configuration: not accepted for an absent instance (R86, R215). -/
def stepCommand (cfg : Config) (n : U4) (s : State) : Host.Outcome State Fault Refusal :=
  match s.reach? n with
  | none => .next s.notAccepted
  | some r =>
    match frameOp cfg s.inp r with
    | none => .fault .orderAddress
    | some r' => .next (s.putReach n r').accepted

/-- STEP inst (R215). -/
def execStep (n : U4) (s : State) : Host.Outcome State Fault Refusal := stepCommand Config.chip n s

end Sys2Proof.Machine
end

