-- ==== Sys2Proof/Machine/HostCommands.lean ====
section
/-! DEFINITION. The host commands NOP, WRPARAM, RDPARAM, RDHEX (spec/40_host_commands.md R110 to R115). A command
whose instance or index does not exist is not accepted (R86, R115). -/

namespace Sys2Proof.Machine

/-- The state after WRPARAM, if the instance and the index exist (R111). -/
def writeParamOp (n : U4) (idx : U8) (imm : S16) (s : State) : Option State :=
  match s.inst? n with
  | none => none
  | some g =>
    match g.writeParam idx imm with
    | none => none
    | some g' => some (s.putInst n g')

/-- NOP (R110). -/
def execNop (s : State) : Host.Outcome State Fault Refusal := .next s.accepted

/-- WRPARAM inst, idx, imm: `P[inst][idx] <- sext_16(imm)`, or not accepted (R111). -/
def execWrparam (n : U4) (idx : U8) (imm : S16) (s : State) : Host.Outcome State Fault Refusal :=
  match writeParamOp n idx imm s with
  | some s' => .next s'.accepted
  | none => .next s.notAccepted

/-- RDPARAM inst, idx: `RD_DATA <- P[inst][idx][15:0]`, or not accepted (R112). -/
def execRdparam (n : U4) (idx : U8) (s : State) : Host.Outcome State Fault Refusal :=
  match s.inst? n with
  | none => .next s.notAccepted
  | some g =>
    match g.readParam idx with
    | some v => .next { s.accepted with rdData := v }
    | none => .next s.notAccepted

/-- RDHEX inst: `RD_DATA <- zext_16(HEXVAL[inst])`, or not accepted (R113). -/
def execRdhex (n : U4) (s : State) : Host.Outcome State Fault Refusal :=
  match s.inst? n with
  | some g => .next { s.accepted with rdData := g.hexval.setWidth 16 }
  | none => .next s.notAccepted

end Sys2Proof.Machine
end

