-- ==== Sys2Proof/Machine/Dispatch.lean ====
section
/-! DEFINITION. One arm per operation, each a direct call of its meaning. -/

namespace Sys2Proof.Machine

def exec (i : Instr) (s : State) : Host.Outcome State Fault Refusal :=
  match i with
  | .nop => Sys2Proof.Machine.execNop s
  | .step n => Sys2Proof.Machine.execStep n s
  | .wrparam n idx imm => Sys2Proof.Machine.execWrparam n idx imm s
  | .rdparam n idx => Sys2Proof.Machine.execRdparam n idx s
  | .rdhex n => Sys2Proof.Machine.execRdhex n s
  | .rand => Sys2Proof.Machine.execRand s
  | .shuffle n => Sys2Proof.Machine.execShuffle n s
  | .draw n => Sys2Proof.Machine.execDraw n s
  | .hexcv n => Sys2Proof.Machine.execHexcv n s
  | .scale x => Sys2Proof.Machine.execScale x s
  | .quant v x root tr mr => Sys2Proof.Machine.execQuant v x root tr mr s
  | .iseqOffLoop pos start len stride => Sys2Proof.Machine.execIseqOffLoop pos start len stride s
  | .iseqOffPend pos start len stride => Sys2Proof.Machine.execIseqOffPend pos start len stride s
  | .iseqVal n => Sys2Proof.Machine.execIseqVal n s
  | .iseqAdv n => Sys2Proof.Machine.execIseqAdv n s
  | .white => Sys2Proof.Machine.execWhite s
  | .noiseWhite w => Sys2Proof.Machine.execNoiseWhite w s
  | .noisePink w => Sys2Proof.Machine.execNoisePink w s
  | .noiseBrown w => Sys2Proof.Machine.execNoiseBrown w s
  | .noiseBlue w sr => Sys2Proof.Machine.execNoiseBlue w sr s
  | .noise n => Sys2Proof.Machine.execNoise n s
  | .edge n input level => Sys2Proof.Machine.execEdge n input level s
  | .divide n => Sys2Proof.Machine.execDivide n s

end Sys2Proof.Machine
end

