-- ==== Sys2Proof/WellFormed.lean ====
section
/-! DEFINITION. Which operations are well formed on a block of `nInst` generators: an instance number is below
N_INST and a parameter index is at most 11 (spec/30_encoding.md R81, R86). Every other operand may take every
value of its type (spec/60_exceptions.md R230). -/

namespace Sys2Proof

/-- `inst` < N_INST for an operation that names an instance (R81, R86). -/
def Instr.instOk (nInst : Nat) (i : Instr) : Bool :=
  match i.inst? with
  | some n => decide (n.toNat < nInst)
  | none => true

/-- `idx` <= 11 for an operation that names a parameter (R81, R86). -/
def Instr.idxOk (i : Instr) : Bool :=
  match i.idx? with
  | some k => decide (k.toNat ≤ 11)
  | none => true

/-- A well-formed operation of a block of `nInst` generators. -/
def Instr.wellFormed (nInst : Nat) (i : Instr) : Bool := i.instOk nInst && i.idxOk

end Sys2Proof
end

