-- ==== Sys2Proof/Decode.lean ====
section
/-! DEFINITION. The decoder of the 32-bit command word (spec/30_encoding.md R81 to R84, R86) and, after it, the
encoder, written from the same tables. A command word is one 32-bit value and never a byte sequence (R66), so the
decoder takes the word. Decoding covers the mask and match columns of R83; the two conditions that R83 leaves to
the command's own rule (inst < N_INST, idx <= 11) are checked where the command runs. -/

namespace Sys2Proof

/-- Why a word selects no row of R83. Such a word is not accepted (R86). -/
inductive DecodeError where
  /-- `op` is 0x5 to 0xF (R86). -/
  | reservedOpcode (op : U4)
  /-- A field the opcode does not use is not zero (R82, R86). -/
  | unusedField
  /-- `idx[7:4]` is not zero: the index is above 15 (R83). -/
  | indexHigh
deriving DecidableEq, Repr

/-- Bits 31:28 (R81). -/
def opField (w : U32) : U4 := w.extractLsb' 28 4
/-- Bits 27:24 (R81). -/
def instField (w : U32) : U4 := w.extractLsb' 24 4
/-- Bits 23:16 (R81). -/
def idxField (w : U32) : U8 := w.extractLsb' 16 8
/-- Bits 15:0 (R81). -/
def immField (w : U32) : S16 := w.extractLsb' 0 16

/-- The instruction a command word selects (R83), for every word. -/
def decode (w : U32) : Except DecodeError Instr :=
  match (opField w).toNat with
  | 0 => if instField w = 0 ∧ idxField w = 0 ∧ immField w = 0 then .ok .nop else .error .unusedField
  | 1 => if idxField w = 0 ∧ immField w = 0 then .ok (.step (instField w)) else .error .unusedField
  | 2 =>
    if (idxField w).toNat < 16 then .ok (.wrparam (instField w) (idxField w) (immField w))
    else .error .indexHigh
  | 3 =>
    if immField w ≠ 0 then .error .unusedField
    else if (idxField w).toNat < 16 then .ok (.rdparam (instField w) (idxField w))
    else .error .indexHigh
  | 4 => if idxField w = 0 ∧ immField w = 0 then .ok (.rdhex (instField w)) else .error .unusedField
  | _ => .error (.reservedOpcode (opField w))

/-- The instruction read from an instruction of `nbits` bits whose bits are `w`; the bits above `nbits` are 0.
A command word has 32 bits, so a longer row is no command. -/
def decodeTableWord (nbits w : Nat) : Option Instr :=
  if 32 < nbits then none
  else
    match decode (BitVec.ofNat 32 (w % 2 ^ nbits)) with
    | .ok i => some i
    | .error _ => none

/-- A command word from its four fields (R81). -/
def commandWord (op inst : U4) (idx : U8) (imm : S16) : U32 := op ++ inst ++ idx ++ imm

/-- The command word of a host command (R83); an internal operation has none (R80, R95). -/
def encode : Instr → Option U32
  | .nop => some (commandWord 0x0 0 0 0)
  | .step n => some (commandWord 0x1 n 0 0)
  | .wrparam n idx imm => some (commandWord 0x2 n idx imm)
  | .rdparam n idx => some (commandWord 0x3 n idx 0)
  | .rdhex n => some (commandWord 0x4 n 0 0)
  | .rand => none
  | .shuffle _ => none
  | .draw _ => none
  | .hexcv _ => none
  | .scale _ => none
  | .quant _ _ _ _ _ => none
  | .iseqOffLoop _ _ _ _ => none
  | .iseqOffPend _ _ _ _ => none
  | .iseqVal _ => none
  | .iseqAdv _ => none
  | .white => none
  | .noiseWhite _ => none
  | .noisePink _ => none
  | .noiseBrown _ => none
  | .noiseBlue _ _ => none
  | .noise _ => none
  | .edge _ _ _ => none
  | .divide _ => none

/-- One row of the opcode map: a word `w` selects the row when `w AND mask = pattern` (R83). -/
structure OpcodeRow where
  mnemonic : String
  pattern : U32
  mask : U32
deriving DecidableEq, Repr

/-- The five rows of R83, as spec/opcode_table.json gives them. -/
def opcodeRows : List OpcodeRow :=
  [ ⟨"NOP", 0x00000000, 0xFFFFFFFF⟩,
    ⟨"STEP", 0x10000000, 0xF0FFFFFF⟩,
    ⟨"WRPARAM", 0x20000000, 0xF0F00000⟩,
    ⟨"RDPARAM", 0x30000000, 0xF0F0FFFF⟩,
    ⟨"RDHEX", 0x40000000, 0xF0FFFFFF⟩ ]

end Sys2Proof
end

