-- ==== Sys2Proof/Machine/Fetch.lean ====
section
/-! DEFINITION. How the next command reaches the block: the host's presentations, one per step (spec/00_scope.md R6,
spec/10_state.md R50, spec/70_reset_and_hazards.md R250, R270, R271; log 5, log 6, log 7). -/

namespace Sys2Proof.Machine

/-- What a presentation asks for. -/
inductive Fetched where
  /-- No operation runs: the state is as given. -/
  | settled (s : State)
  /-- The operation `i` runs from the state given. -/
  | run (i : Instr) (s : State)
deriving DecidableEq, Repr

/-- The state in which the presentation `p` is sampled and `rest` is what the host presents afterwards. -/
def State.drive (s : State) (p : InPorts) (rest : List InPorts) : State := { s with inp := p, host := rest }

/-- The next presentation: nothing presented or no valid command changes nothing; `rst` is taken in place of a command
and performs the whole reset procedure (R250); a valid word that selects no row is not accepted (R86); any other
word runs its instruction. -/
def State.fetch (s : State) : Fetched :=
  match s.host with
  | [] => .settled s
  | p :: rest =>
    if p.rst then .settled (State.reset.drive p rest)
    else if p.cmdValid then
      match decode p.cmd with
      | .ok i => .run i (s.drive p rest)
      | .error _ => .settled (s.drive p rest).notAccepted
    else .settled (s.drive p rest)

/-- A presentation of the command word `w` with the given port values. -/
def presentWord (w : U32) (clk trig : S32) (sr : U32) : InPorts :=
  { rst := false, cmdValid := true, cmd := w, clkIn := clk, trigIn := trig, sr := sr }

/-- A presentation of `rst` (R250). -/
def presentReset : InPorts := { quietPorts with rst := true }

/-- Put the `nbits` bits `w` before what the host presents, as a command word with the port values that the listings of
R97 use where they give none: levels 0 and a rate of 48000. -/
def State.presentFirst (s : State) (nbits w : Nat) : State :=
  { s with host := presentWord (BitVec.ofNat 32 (w % 2 ^ nbits)) 0 0 48000 :: s.host }

end Sys2Proof.Machine
end

