-- ==== Sys2Proof/Machine/Step.lean ====
section
/-! DEFINITION. One step of the machine: one presentation of the host, taken completely (spec/00_scope.md R6). -/

namespace Sys2Proof.Machine

/-- One step. -/
def step (s : State) : Host.Outcome State Fault Refusal :=
  match s.fetch with
  | .settled s' => .next s'
  | .run i s' => exec i s'

/-- The state whose next step fetches and runs exactly the instruction of `nbits` bits `w` (log 5). -/
def State.withFetchWord (s : State) (nbits w : Nat) : State := s.presentFirst nbits w

end Sys2Proof.Machine
end

