-- ==== Sys2Proof/Machine/Ports.lean ====
section
/-! DEFINITION. The output ports and what a run shows (spec/10_state.md R50, spec/70_reset_and_hazards.md R270, R271; log 6,
log 21). They are functions of the registers: the port format is applied at the port only and never feeds back (R50). -/

namespace Sys2Proof.Machine

/-- The five output streams of one instance as its ports carry them (R50, R216). -/
structure Streams where
  outRaw : REAL
  outQuant : REAL
  outIseq : REAL
  outNoise : REAL
  divOut : Bool
deriving DecidableEq, Repr

/-- All the output ports of the block (R50): `streams` holds those of instance 0 first. -/
structure OutPorts where
  cmdReady : Bool
  rdData : U16
  cmdErr : Bool
  streams : List Streams
deriving DecidableEq, Repr

/-- What a run shows after one command (R271). -/
structure Shown where
  rdData : U16
  cmdErr : Bool
  /-- The streams of the instance stepped; none after a command that steps no instance. -/
  streams : Option Streams
deriving DecidableEq, Repr

/-- The ports of one instance (R50). -/
def GenInst.streams (cfg : Config) (g : GenInst) : Streams :=
  { outRaw := cfg.outFmt g.outRaw
    outQuant := cfg.outFmt g.outQuant
    outIseq := cfg.outFmt g.outIseq
    outNoise := cfg.outFmt g.outNoise
    divOut := g.divOut }

/-- The ports of instance `n`, if the block has it. -/
def State.streamsOf (cfg : Config) (s : State) (n : U4) : Option Streams := (s.inst? n).map (GenInst.streams cfg)

/-- The output ports. Between commands the block is ready (R270, log 6). -/
def State.outPorts (cfg : Config) (s : State) : OutPorts :=
  { cmdReady := true
    rdData := s.rdData
    cmdErr := s.cmdErr
    streams := s.insts.map (GenInst.streams cfg) }

/-- A presentation that is a command: valid, and not taken by `rst` (R50, R250). -/
def InPorts.isCommand (p : InPorts) : Bool := p.cmdValid && !p.rst

/-- The instance that a presentation steps: the one its STEP names. -/
def InPorts.stepped (p : InPorts) : Option U4 :=
  if p.isCommand then
    match decode p.cmd with
    | .ok (.step n) => some n
    | _ => none
  else none

/-- What a run shows after the command on the ports: RD_DATA and CMD_ERR after every command, a refused one too, and the
streams of the instance stepped (R271, D41). -/
def State.observe (s : State) : Shown :=
  { rdData := s.rdData
    cmdErr := s.cmdErr
    streams := s.inp.stepped.bind (s.streamsOf Config.chip) }

/-- The state in which the host presents `p` next and nothing after it. -/
def State.present (s : State) (p : InPorts) : State := { s with host := [p] }

/-- The state after a sequence of presentations, taken one at a time (R6). -/
def State.after (s : State) : List InPorts → Option State
  | [] => some s
  | p :: ps =>
    match step (s.present p) with
    | .next t => t.after ps
    | .fault _ => none
    | .refused _ => none

/-- What a sequence of presentations shows: one entry for each that is a command, taken after it (R271). -/
def State.shows (s : State) : List InPorts → List Shown
  | [] => []
  | p :: ps =>
    match step (s.present p) with
    | .next t => if p.isCommand then t.observe :: t.shows ps else t.shows ps
    | .fault _ => []
    | .refused _ => []

/-- What a run shows: one application of `rst`, in whatever state the block is, then the commands (R257, R271). -/
def State.runShows (s : State) (cmds : List InPorts) : List Shown := s.shows (presentReset :: cmds)

end Sys2Proof.Machine
end

