-- ==== Sys2Proof/Safety.lean ====
section
/-! DEFINITION. What counts as a safe state and a safe run: the invariants of spec/10_state.md R52 with the counters'
ranges (R25, R27), and the legal ranges of the parameters (R40), inside which a host never meets a case that the
spec decided on its own, but for R265 (spec/70_reset_and_hazards.md R264). -/

namespace Sys2Proof.Machine

/-- ORDER holds each of 0..63 exactly once (R26, R52). -/
abbrev orderIsPermutation (o : Vector U6 64) : Prop := o.toList.Perm identityOrder.toList

/-- The lines show the entry last read in this epoch (R52; at cursor 0 the epoch has no draw yet). -/
abbrev GenInst.showsLastDraw (g : GenInst) : Prop :=
  0 < g.cursor.toNat → g.readOrder (g.cursor.toNat - 1) = some g.hexval

/-- The invariant of one instance's record (R26, R27, R52 items 1 and 2). -/
structure GenInst.Inv (g : GenInst) : Prop where
  order_perm : orderIsPermutation g.order
  cursor_lt : g.cursor.toNat < 64

/-- The invariant of the block (R20, R25, R52): one record for each of the N_INST instances, each with its invariant, and
DIVCNT in 0..32766. -/
structure State.Inv (s : State) : Prop where
  inst_count : s.insts.length = Config.chip.nInst
  inst_inv : ∀ g ∈ s.insts, g.Inv
  divcnt_le : s.shared.divcnt.toNat ≤ 32766

/-- Every instance's lines show its last draw (R52 item 3). -/
def State.ShowsDraws (s : State) : Prop := ∀ g ∈ s.insts, g.showsLastDraw

/-- The legal range of a parameter; that of ISEQ_LEN depends on the direction (R40). -/
def paramLegal (dir : Int) (k : Param) (v : Int) : Bool :=
  match k with
  | .scale => decide (0 ≤ v ∧ v ≤ 132)
  | .root => decide (0 ≤ v ∧ v ≤ 11)
  | .transpose => decide (-60 ≤ v ∧ v ≤ 60)
  | .maskRot => decide (0 ≤ v ∧ v ≤ 11)
  | .iseqSel => decide (0 ≤ v ∧ v ≤ 9)
  | .iseqMod => decide (0 ≤ v ∧ v ≤ 127)
  | .iseqStart => decide (0 ≤ v ∧ v ≤ 127)
  | .iseqLen => if dir = 1 then decide (2 ≤ v ∧ v ≤ 128) else decide (1 ≤ v ∧ v ≤ 128)
  | .iseqDir => decide (v = 0 ∨ v = 1)
  | .iseqStride => decide (0 ≤ v ∧ v ≤ 127)
  | .noiseType => decide (0 ≤ v ∧ v ≤ 3)
  | .clkDiv => decide (1 ≤ v ∧ v ≤ 32767)

/-- Every parameter of an instance is in its legal range (R40, R264). -/
def GenInst.LegalParams (g : GenInst) : Prop := ∀ k, paramLegal (g.p .iseqDir) k (g.p k) = true

/-- An outcome at which the machine goes on (R230: "never stall, never fault"). -/
def goesOn (o : Host.Outcome State Fault Refusal) : Prop := ∃ s, o = .next s

end Sys2Proof.Machine
end

