-- ==== Sys2Proof/Certificates/Slice0/Obligations.lean ====
section
/-! DEFINITION. The statements about ICR-CORE. Each docstring names the rule of spec/ it formalises; where a statement
rests on a choice of the spec's own (a decision D<n>) or of the model's (a log entry), the docstring says so. A
statement whose conclusion is an equation `exec i s = .next t` says at once that the operation completes, what it
does, and (because `t` is `s` with the named fields replaced) what it leaves unchanged. The block has no
byte-addressed memory (R66): every storage space is a field of State or a constant of the configuration. Wherever `exec`
runs an internal operation on its own, that is the model's choice (log 18), and a value it returns stands in the
model's own field `ret` (log 8). -/

namespace Sys2Proof.Spec

open Sys2Proof Sys2Proof.Machine

/-- RNG_NEXT applied `k` times (R21, R120). -/
abbrev advance (k : Nat) (rng : U32) : U32 := Config.chip.rngNext^[k] rng

/-- Entries `k` and `j` of an array of 64 exchanged, written entry by entry (R12: swap). -/
def swapped (o : Vector U6 64) (k j : Nat) : Vector U6 64 :=
  Vector.ofFn fun a : Fin 64 =>
    if a.val = k then (o[j]?).getD 0 else if a.val = j then (o[k]?).getD 0 else o[a.val]

/-- The shuffle of R122 with its random values written out: iteration number `c` (from 0) has k = 63 - c, its value is
RNG_OUT of the state after c + 1 advances, and j is that value modulo k + 1. -/
def fisherYates (rng : U32) (o : Vector U6 64) : Vector U6 64 :=
  (List.range 63).foldl
    (fun a c => swapped a (63 - c) ((Config.chip.rngOut (advance (c + 1) rng)).toNat % (64 - c))) o

/-- RNG after `k` RAND calls from `rng` (R120). -/
def randState (cfg : Config) (k : Nat) (rng : U32) : U32 := (fun x => (rand cfg x).1)^[k] rng

/-- What RAND call number `k + 1` from `rng` returns (R120). -/
def randValue (cfg : Config) (k : Nat) (rng : U32) : Nat := (rand cfg (randState cfg k rng)).2

/-- ORDER after `m` shuffles of `o`, the first of them from the generator's state `rng`, with no other RAND call between. -/
def orderAfter (rng : U32) (o : Vector U6 64) : Nat → Vector U6 64
  | 0 => o
  | m + 1 => fisherYates (advance (63 * m) rng) (orderAfter rng o m)

/-- The hexagrams in ascending order. -/
def allHexagrams : List U6 := (List.range 64).map fun k => BitVec.ofNat 6 k

/-- Outcomes in sequence. -/
def andThen (o : Host.Outcome State Fault Refusal) (f : State → Host.Outcome State Fault Refusal) :
    Host.Outcome State Fault Refusal :=
  match o with
  | .next s => f s
  | .fault e => .fault e
  | .refused e => .refused e

/-- `k` draws of instance `n` one after the other: the hexagram number after each, and the last state. -/
def drawMany (n : U4) : Nat → State → Option (List U6 × State)
  | 0, s => some ([], s)
  | k + 1, s =>
    match exec (.draw n) s with
    | .next t =>
      match t.insts[n.toNat]?, drawMany n k t with
      | some g, some r => some (g.hexval :: r.1, r.2)
      | _, _ => none
    | _ => none

/-- `k` runs of DIVIDE of instance `n` one after the other: the level written at each, and the last state. -/
def divideMany (n : U4) : Nat → State → Option (List Bool × State)
  | 0, s => some ([], s)
  | k + 1, s =>
    match exec (.divide n) s with
    | .next t =>
      match t.insts[n.toNat]?, divideMany n k t with
      | some g, some r => some (g.divOut :: r.1, r.2)
      | _, _ => none
    | _ => none

/-- Line 4 of R215: QUANT of the value just returned, with `P[n][0..3]`, stored in OUT_QUANT[n]. -/
def quantLine (n : U4) (s : State) : Host.Outcome State Fault Refusal :=
  match s.insts[n.toNat]?, s.ret with
  | some g, .real raw =>
    andThen (exec (.quant raw g.params[0] g.params[1] g.params[2] g.params[3]) s) fun t =>
      match t.ret with
      | .real v => .next { t with insts := t.insts.set n.toNat { g with outQuant := v } }
      | _ => .next t
  | _, _ => .next s

/-- STEP as R215 lists it: the internal operations run one after the other, the conditional ones when the EDGE before
them returned 1. The model's own `ret` is put back at the end (log 8). -/
def stepLines (n : U4) (s : State) : Host.Outcome State Fault Refusal :=
  andThen (exec (.edge n .clk (q16Value s.inp.clkIn)) s) fun s1 =>
  andThen (if s1.ret = .bit true then andThen (exec (.draw n) s1) (exec (.divide n)) else .next s1) fun s2 =>
  andThen (exec (.hexcv n) s2) fun s3 =>
  andThen (quantLine n s3) fun s4 =>
  andThen (exec (.edge n .trig (q16Value s.inp.trigIn)) s4) fun s5 =>
  andThen (if s5.ret = .bit true then exec (.iseqAdv n) s5 else .next s5) fun s6 =>
  andThen (exec (.iseqVal n) s6) fun s7 =>
  andThen (exec (.noise n) s7) fun s8 => .next { s8 with cmdErr := false, ret := s.ret }

/-- The words R86 does not accept, written on the number of the word: a reserved opcode, a non-zero field that the opcode
does not use, an instance that does not exist, a parameter index above 11. -/
def notAcceptedWord (nInst : Nat) (w : U32) : Prop :=
  let op := w.toNat / 2 ^ 28
  let inst := w.toNat / 2 ^ 24 % 16
  let idx := w.toNat / 2 ^ 16 % 256
  let imm := w.toNat % 2 ^ 16
  5 ≤ op ∨ (op = 0 ∧ (inst ≠ 0 ∨ idx ≠ 0 ∨ imm ≠ 0)) ∨ ((op = 1 ∨ op = 4) ∧ (idx ≠ 0 ∨ imm ≠ 0)) ∨
    (op = 3 ∧ imm ≠ 0) ∨ (1 ≤ op ∧ nInst ≤ inst) ∨ ((op = 2 ∨ op = 3) ∧ 12 ≤ idx)

/-- A rising edge as R200 and R93 say it: strictly above 1.0 now, low at the last sample. -/
abbrev risesClk (s : State) (g : GenInst) : Prop := 1 < q16Value s.inp.clkIn ∧ g.clkPrev = false
/-- The same for the trigger input. -/
abbrev risesTrig (s : State) (g : GenInst) : Prop := 1 < q16Value s.inp.trigIn ∧ g.trigPrev = false

/-- The white sample that a STEP or a NOISE draws, from the generator's state after the draw (R120, R180). -/
abbrev whiteOf (rng : U32) : REAL := whiteMap Config.chip (Config.chip.rngOut rng)

/-- The distance of R144 of an offset `o` from the class of the target `t`, with the mask rotation `mr`. -/
abbrev ruleDist (t mr : Int) (o : REAL) : REAL :=
  |(o + mr - 12 * (((o + mr) / 12).floor : REAL)) - ((t % 12 : Int) : REAL)|

end Sys2Proof.Spec

open Sys2Proof Sys2Proof.Machine Sys2Proof.Spec

/-! ### Encoding -/

/-- Decode and encode agree: every well-formed host command has a word, and the word decodes to it, whatever its
operands (R81 to R83; field layout and opcodes are the spec's decisions D4, D5). -/
def Obligations.DecodeEncodeRoundTrip : Prop :=
  ∀ (nInst : Nat) (i : Instr), i.wellFormed nInst = true →
    (i.mnemonic ∈ ["NOP", "STEP", "WRPARAM", "RDPARAM", "RDHEX"] → (encode i).isSome = true) ∧
    ∀ w, encode i = some w → decode w = .ok i

/-- The other direction: a word that decodes is the word of its instruction, so no bit of it is ignored (R81 to R83). -/
def Obligations.DecodedWordReencodes : Prop :=
  ∀ (w : U32) (i : Instr), decode w = .ok i → encode i = some w

/-- The opcode map of R83: a word decodes to a row's instruction exactly when (w AND mask) = match; opcodes 0x5 to 0xF
select nothing. -/
def Obligations.DecodeFollowsOpcodeMap : Prop :=
  (∀ (w : U32), ∀ row ∈ opcodeRows,
    (w &&& row.mask = row.pattern ↔ ∃ i, decode w = .ok i ∧ i.mnemonic = row.mnemonic)) ∧
  ∀ (w : U32), 5 ≤ w.toNat / 2 ^ 28 → ∃ e, decode w = .error e

/-- Words written out by the spec decode to what it says (R99, V90 to V101). -/
def Obligations.SpecWordsDecode : Prop :=
  decode 0x10000000 = .ok (.step 0) ∧ decode 0x11000000 = .ok (.step 1) ∧
  decode 0x200B0004 = .ok (.wrparam 0 11 4) ∧ decode 0x2002FFF4 = .ok (.wrparam 0 2 (BitVec.ofInt 16 (-12))) ∧
  decode 0x30070000 = .ok (.rdparam 0 7) ∧ decode 0x40000000 = .ok (.rdhex 0) ∧ decode 0x00000000 = .ok .nop

/-! ### One step: presentations, acceptance, reset -/

/-- A step runs the decoded instruction: the host's next presentation is sampled, and the instruction its word selects
is executed (R6, R83; the queue of presentations is the model's choice, log 5). -/
def Obligations.StepRunsDecodedInstruction : Prop :=
  ∀ (s : State) (p : InPorts) (rest : List InPorts) (i : Instr), s.host = p :: rest → p.rst = false →
    p.cmdValid = true → decode p.cmd = .ok i → step s = exec i { s with inp := p, host := rest }

/-- R86: a word that is not accepted sets CMD_ERR to 1 and changes no other state; an accepted one leaves CMD_ERR 0.
(The presentation itself moves from the queue to the ports, log 5; N_INST is the number of records, log 4.) -/
def Obligations.UnacceptedWordSetsOnlyCmdErr : Prop :=
  ∀ (s : State) (p : InPorts) (rest : List InPorts), s.host = p :: rest → p.rst = false → p.cmdValid = true →
    (notAcceptedWord s.insts.length p.cmd → step s = .next { s with inp := p, host := rest, cmdErr := true }) ∧
    (¬ notAcceptedWord s.insts.length p.cmd → (∀ g ∈ s.insts, g.cursor.toNat < 64) →
      ∃ t, step s = .next t ∧ t.cmdErr = false)

/-- `rst`, taken in place of a command, performs the whole reset procedure, whatever the state was (R250; that it wins
over cmd_valid and keeps what the host presents later is log 7). -/
def Obligations.ResetPortRunsResetProcedure : Prop :=
  ∀ (s : State) (p : InPorts) (rest : List InPorts), s.host = p :: rest → p.rst = true →
    step s = .next { State.reset with inp := p, host := rest }

/-- Nothing runs between commands (R6, R271): with nothing presented the state stays, and a presentation without
cmd_valid changes the ports only (log 6). -/
def Obligations.NothingPresentedChangesNothing : Prop :=
  ∀ s : State, (s.host = [] → step s = .next s) ∧
    ∀ p rest, s.host = p :: rest → p.rst = false → p.cmdValid = false →
      step s = .next { s with inp := p, host := rest }

/-! ### Invariants -/

/-- Every step keeps the invariant of R52 items 1 and 2 and the range of R25: each ORDER is a permutation, each CURSOR is
below 64, DIVCNT is at most 32766, and there are N_INST records. -/
def Obligations.StepKeepsInvariant : Prop :=
  ∀ s t : State, s.Inv → step s = .next t → t.Inv

/-- Every operation of the table, run on its own, keeps the same invariant (R52; R61 and R123 for the shuffle). -/
def Obligations.EveryOperationKeepsInvariant : Prop :=
  ∀ (i : Instr) (s t : State), s.Inv → exec i s = .next t → t.Inv

/-- R52 item 3 (derived there): along every step the lines of every instance go on showing the entry that its last draw
of the epoch read. -/
def Obligations.StepKeepsLinesOfLastDraw : Prop :=
  ∀ s t : State, s.Inv → s.ShowsDraws → step s = .next t → t.ShowsDraws

/-- The state after reset meets both invariants (R52: "hold in the reset state"). -/
def Obligations.ResetMeetsInvariant : Prop := State.reset.Inv ∧ State.reset.ShowsDraws

/-- R230: in every state of the invariant a step answers a next state, whatever the host presents. R271 (decision D41, log
21): so a run, one `rst` in any state and then any commands, shows one entry after each command, a refused one too: the
ports after it; and what it shows does not depend on the state before the `rst` (R256). -/
def Obligations.NoStepFaults : Prop :=
  (∀ s : State, s.Inv → ∃ t, step s = .next t) ∧
  ∀ (s : State) (cmds : List InPorts), (∀ p ∈ cmds, p.isCommand = true) →
    (s.runShows cmds).length = cmds.length ∧
    (∀ k, k < cmds.length →
      ∃ t, s.after (presentReset :: cmds.take (k + 1)) = some t ∧ (s.runShows cmds)[k]? = some t.observe) ∧
    ∀ s' : State, s'.runShows cmds = s.runShows cmds

/-- R230: every internal operation is total. In every state of the invariant every well-formed operation completes, with
every value of its operands. -/
def Obligations.EveryWellFormedOperationCompletes : Prop :=
  ∀ (i : Instr) (s : State), s.Inv → i.wellFormed s.insts.length = true → ∃ t, exec i s = .next t

/-- What reset leaves in every register of the spec (R21, R53, R251 to R254; the values are the spec's decisions D7 and
D31 where the source is silent; the model's own fields are log 14's and not spoken of): the generator advanced 63
times for each instance, each instance's ORDER the shuffle of the identity from the state the instances before it
left, every register at its value. -/
def Obligations.ResetStateOfEveryInstance : Prop :=
  State.reset.shared =
    { rng := advance (63 * Config.chip.nInst) Config.chip.seed, pink := #v[0, 0, 0], brown := 0, bluePrev := 0, divcnt := 0 } ∧
  State.reset.insts.length = Config.chip.nInst ∧ State.reset.rdData = 0 ∧ State.reset.cmdErr = false ∧
  ∀ (k : Nat) (g : GenInst), State.reset.insts[k]? = some g →
    g = { order := fisherYates (advance (63 * k) Config.chip.seed) (Vector.ofFn fun a : Fin 64 => BitVec.ofNat 6 a.val)
          cursor := 0, lines := #v[false, false, false, false, false, false], clkPrev := false, iseqPos := 0
          trigPrev := false, divOut := false, params := #v[0, 0, 0, 0, 0, 0, 0, 128, 0, 1, 0, 1]
          outRaw := 0, outQuant := 0, outIseq := 0, outNoise := 0 }

/-! ### Host commands -/

/-- R110: NOP changes no state component but CMD_ERR. -/
def Obligations.NopClearsCmdErrOnly : Prop :=
  ∀ s : State, exec .nop s = .next { s with cmdErr := false }

/-- R111: WRPARAM stores the 16 bits as given in one register and clears CMD_ERR; for an absent instance or an index above
11 only CMD_ERR is set. -/
def Obligations.WrparamStoresOneRegister : Prop :=
  ∀ (s : State) (n : U4) (idx : U8) (imm : S16),
    (∀ (g : GenInst) (h : idx.toNat < 12), s.insts[n.toNat]? = some g →
      exec (.wrparam n idx imm) s =
        .next { s with cmdErr := false, insts := s.insts.set n.toNat { g with params := g.params.set idx.toNat imm h } }) ∧
    (s.insts.length ≤ n.toNat ∨ 12 ≤ idx.toNat → exec (.wrparam n idx imm) s = .next { s with cmdErr := true })

/-- R112: RDPARAM puts the 16 bits of the register on RD_DATA and changes nothing else but CMD_ERR; for an absent instance
or an index above 11 only CMD_ERR is set. -/
def Obligations.RdparamReadsOneRegister : Prop :=
  ∀ (s : State) (n : U4) (idx : U8),
    (∀ (g : GenInst) (h : idx.toNat < 12), s.insts[n.toNat]? = some g →
      exec (.rdparam n idx) s = .next { s with cmdErr := false, rdData := g.params[idx.toNat] }) ∧
    (s.insts.length ≤ n.toNat ∨ 12 ≤ idx.toNat → exec (.rdparam n idx) s = .next { s with cmdErr := true })

/-- R111 and R112 together: a parameter written is read back, and every other register of every instance reads as
before. -/
def Obligations.WrittenParameterIsReadBack : Prop :=
  ∀ (s : State) (n m : U4) (idx k : U8) (imm : S16), n.toNat < s.insts.length → m.toNat < s.insts.length →
    idx.toNat < 12 → k.toNat < 12 →
    ∃ t u v, exec (.wrparam n idx imm) s = .next t ∧ exec (.rdparam m k) t = .next u ∧ exec (.rdparam m k) s = .next v ∧
      u.rdData = if m = n ∧ k = idx then imm else v.rdData

/-- R113: RDHEX puts HEXVAL, the sum of LINES[b]·2^b, on RD_DATA and changes nothing else but CMD_ERR; for an absent
instance only CMD_ERR is set. -/
def Obligations.RdhexReadsLines : Prop :=
  ∀ (s : State) (n : U4),
    (∀ g : GenInst, s.insts[n.toNat]? = some g →
      ∃ d : U16, exec (.rdhex n) s = .next { s with cmdErr := false, rdData := d } ∧
        d.toNat = g.lines[0].toNat + 2 * g.lines[1].toNat + 4 * g.lines[2].toNat + 8 * g.lines[3].toNat
          + 16 * g.lines[4].toNat + 32 * g.lines[5].toNat) ∧
    (s.insts.length ≤ n.toNat → exec (.rdhex n) s = .next { s with cmdErr := true })

/-- R116: no host command but STEP writes the generator, the divider count, the noise state or anything of an instance's
record but its parameters. -/
def Obligations.HostCommandsKeepGeneratorState : Prop :=
  ∀ (i : Instr) (s t : State), i.mnemonic ∈ ["NOP", "WRPARAM", "RDPARAM", "RDHEX"] → exec i s = .next t →
    t.shared = s.shared ∧ t.insts.length = s.insts.length ∧
    ∀ (k : Nat) (g g' : GenInst), s.insts[k]? = some g → t.insts[k]? = some g' → g' = { g with params := g'.params }

/-- R40: "no operation of the block writes one": only WRPARAM writes a parameter register. -/
def Obligations.ParametersWrittenByWrparamOnly : Prop :=
  ∀ (i : Instr) (s t : State), i.mnemonic ≠ "WRPARAM" → exec i s = .next t →
    ∀ (k : Nat) (g g' : GenInst), s.insts[k]? = some g → t.insts[k]? = some g' → g'.params = g.params

/-! ### The hexagram scheduler -/

/-- R120: RAND replaces the generator's state and returns RNG_OUT of the NEW state, below 2^32; nothing else changes (the
returned value stands in the model's `ret`, log 8). -/
def Obligations.RandAdvancesGenerator : Prop :=
  ∀ s : State, ∃ r : Nat, r < 2 ^ 32 ∧ r = (Config.chip.rngOut (Config.chip.rngNext s.shared.rng)).toNat ∧
    exec .rand s = .next { s with
      shared := { s.shared with rng := Config.chip.rngNext s.shared.rng }
      ret := .int r }

/-- R122, on all that SHUFFLE i can reach (the singletons and the record of i, R20), with RAND as R120 has it: 63 RAND
calls, in the order k = 63 downto 1, each giving j = r mod (k + 1) and exchanging the entries k and j; of what it
reaches, RNG and ORDER alone change. -/
def Obligations.ShuffleIsFisherYates : Prop :=
  ∀ (cfg : Config) (r : Reach),
    shuffleOp cfg r =
      { shared := { r.shared with rng := randState cfg 63 r.shared.rng }
        inst := { r.inst with
          order := (List.range 63).foldl
            (fun a c => swapped a (63 - c) (randValue cfg c r.shared.rng % (64 - c))) r.inst.order } }

/-- SHUFFLE on its own (log 18) completes with the shuffle of R122, its values RNG_OUT of the NEW states (decision D10 of
R120), writes RNG and ORDER of its instance and empties `ret` (log 8); nothing else changes. R123 (a) (derived there):
it only rearranges ORDER, every value occurs as often after as before. -/
def Obligations.ShuffleKeepsEntries : Prop :=
  ∀ (s : State) (n : U4) (g : GenInst), s.insts[n.toNat]? = some g →
    exec (.shuffle n) s = .next { s with
      shared := { s.shared with rng := advance 63 s.shared.rng }
      insts := s.insts.set n.toNat { g with order := fisherYates s.shared.rng g.order }
      ret := .none } ∧
    (fisherYates s.shared.rng g.order).toList.Perm g.order.toList

/-- R124, on all that DRAW i can reach: it reads ORDER at the cursor (an address 0..63), puts bit b on line b and raises the
cursor; when the cursor reaches 64 it runs SHUFFLE and returns the cursor to 0; nothing else changes. -/
def Obligations.DrawTakesNextEntry : Prop :=
  ∀ (cfg : Config) (r : Reach) (hc : r.inst.cursor.toNat < 64),
    ∃ (l : Vector Bool 6) (c : U7),
      (∀ (b : Nat) (hb : b < 6), l[b] = r.inst.order[r.inst.cursor.toNat].getLsbD b) ∧
      c.toNat = r.inst.cursor.toNat + 1 ∧
      drawOp cfg r = some
        (if c.toNat = 64 then
          { shared := (shuffleOp cfg r).shared
            inst := { r.inst with order := (shuffleOp cfg r).inst.order, lines := l, cursor := 0 } }
        else { r with inst := { r.inst with lines := l, cursor := c } })

/-- R125 (a), (c): 64 consecutive draws from the start of an epoch give the entries of ORDER in order, hence each of 0..63
exactly once, and leave the start of another epoch on a permutation. -/
def Obligations.EpochDrawsEachHexagramOnce : Prop :=
  ∀ (s : State) (n : U4) (g : GenInst), s.insts[n.toNat]? = some g → orderIsPermutation g.order → g.cursor = 0 →
    ∃ hs t g', drawMany n 64 s = some (hs, t) ∧ hs = g.order.toList ∧ hs.Perm allHexagrams ∧
      t.insts[n.toNat]? = some g' ∧ orderIsPermutation g'.order ∧ g'.cursor = 0

/-- DRAW on its own (log 18) completes wherever the cursor is an address of ORDER: line b is bit b of the entry at the
cursor, and the cursor rises by 1 or, from 63, ORDER is shuffled (63 RAND calls, R122; D10 of R120) and the cursor
returns to 0; `ret` is emptied (log 8) and nothing else changes. R125 (b): from the start of an epoch, k draws run
floor(k/64) shuffles, ORDER afterwards being that many shuffles of the first one, each from the state the shuffle
before it left, with no other RAND call; and they leave the cursor at k mod 64. -/
def Obligations.ReshuffleEverySixtyFourDraws : Prop :=
  ∀ (s : State) (n : U4) (g : GenInst), s.insts[n.toNat]? = some g →
    (∀ hc : g.cursor.toNat < 64,
      ∃ l : Vector Bool 6, (∀ (b : Nat) (hb : b < 6), l[b] = g.order[g.cursor.toNat].getLsbD b) ∧
        exec (.draw n) s = .next
          (if g.cursor.toNat = 63 then
            { s with
              shared := { s.shared with rng := advance 63 s.shared.rng }
              insts := s.insts.set n.toNat
                { g with order := fisherYates s.shared.rng g.order, lines := l, cursor := 0 }
              ret := .none }
          else
            { s with insts := s.insts.set n.toNat { g with lines := l, cursor := g.cursor + 1 }, ret := .none })) ∧
    (g.cursor = 0 → ∀ k : Nat,
      ∃ hs t g', drawMany n k s = some (hs, t) ∧ t.insts[n.toNat]? = some g' ∧ g'.cursor.toNat = k % 64 ∧
        g'.order = orderAfter s.shared.rng g.order (k / 64) ∧
        t.shared.rng = advance (63 * (k / 64)) s.shared.rng)

/-- R128: HEXCV writes HEX_CV of the sum of LINES[b]·2^b to OUT_RAW and returns it; nothing else changes. -/
def Obligations.HexcvWritesRawValue : Prop :=
  ∀ (s : State) (n : U4) (g : GenInst), s.insts[n.toNat]? = some g →
    ∃ h : U6, h.toNat = g.lines[0].toNat + 2 * g.lines[1].toNat + 4 * g.lines[2].toNat + 8 * g.lines[3].toNat
        + 16 * g.lines[4].toNat + 32 * g.lines[5].toNat ∧
      exec (.hexcv n) s = .next { s with
        insts := s.insts.set n.toNat { g with outRaw := Config.chip.hexCv h }
        ret := .real (Config.chip.hexCv h) }

/-- R21, R121: the generator is written by RAND only, so an operation advances it 0, 1, 63 or 64 times: 1 by RAND, WHITE
and NOISE, 63 by SHUFFLE, 1 or 64 by STEP. -/
def Obligations.GeneratorAdvancesByRandOnly : Prop :=
  ∀ (i : Instr) (s t : State), exec i s = .next t →
    (t.shared.rng = s.shared.rng ∨ t.shared.rng = advance 1 s.shared.rng ∨ t.shared.rng = advance 63 s.shared.rng ∨
      t.shared.rng = advance 64 s.shared.rng) ∧
    (i.mnemonic ∉ ["STEP", "RAND", "SHUFFLE", "DRAW", "WHITE", "NOISE"] → t.shared.rng = s.shared.rng)

/-! ### The quantizer -/

/-- R140 with R62, R63, R143: SCALE returns the list of a standard index (5 to 8 non-negative, non-decreasing integers, the
last 12), the 20 offsets of an exotic row (a non-decreasing non-negative part, then zeros), or the empty list; no
state changes. -/
def Obligations.ScaleResolvesIndex : Prop :=
  ∀ (s : State) (x : S16), ∃ l : List REAL, exec (.scale x) s = .next { s with ret := .offsets l } ∧
    (∀ k : Fin 16, x.toInt = k.val → l = readStdScale Config.chip k ∧ 5 ≤ l.length ∧ l.length ≤ 8 ∧
      l.getLast? = some 12 ∧ l.Pairwise (· ≤ ·) ∧ ∀ o ∈ l, 0 ≤ o ∧ ∃ m : Int, o = m) ∧
    (∀ k : Fin 117, x.toInt = 16 + k.val → l = readExotic Config.chip k ∧ l.length = 20 ∧
      ∃ m, m ≤ 20 ∧ (l.take m).Pairwise (· ≤ ·) ∧ (∀ o ∈ l, 0 ≤ o) ∧ ∀ o ∈ l.drop m, o = 0) ∧
    (x.toInt < 0 ∨ 132 < x.toInt → l = [])

/-- R144 with R142: QUANT returns the target's octave plus the FIRST degree at the least plain distance from the target's
class, divided by 12; with an empty scale, the octave alone; no state changes. -/
def Obligations.QuantPicksFirstNearestDegree : Prop :=
  ∀ (s : State) (v : REAL) (x root tr mr : S16), ∃ q : REAL,
    exec (.quant v x root tr mr) s = .next { s with ret := .real q } ∧
    let t : Int := roundHaz (12 * v) + root.toInt + tr.toInt
    let l := scaleOf Config.chip x.toInt
    (l = [] ∧ q = ((t / 12 : Int) : REAL)) ∨
      ∃ (k : Nat) (hk : k < l.length), q = (12 * ((t / 12 : Int) : REAL) + l[k]) / 12 ∧
        ∀ (j : Nat) (hj : j < l.length), ruleDist t mr.toInt l[k] ≤ ruleDist t mr.toInt l[j] ∧
          (j < k → ruleDist t mr.toInt l[k] < ruleDist t mr.toInt l[j])

/-- R142: when SCALE returns the empty list, the chosen offset is 0 and QUANT returns floor(t/12), a whole number of
octaves, for whatever target t it has (`targetSemitone`). -/
def Obligations.EmptyScaleGivesWholeOctaves : Prop :=
  ∀ (cfg : Config) (v : REAL) (x root tr mr : Int), scaleOf cfg x = [] →
    (∀ tc : Int, chosenOffset (scaleOf cfg x) tc mr = 0) ∧
    quantOf cfg v x root tr mr = ((targetSemitone v root tr / 12 : Int) : REAL)

/-- R14: round_haz gives an integer at distance at most 1/2, and at a tie the one away from zero (decision D12). -/
def Obligations.RoundHazIsNearestAwayFromZero : Prop :=
  ∀ x : REAL, |x - (roundHaz x : REAL)| ≤ 1 / 2 ∧ (|x - (roundHaz x : REAL)| = 1 / 2 → |x| < |(roundHaz x : REAL)|)

/-- R146 (a), for every configuration R8 admits: a value on a standard scale is returned unchanged. The octave entry 12
needs an entry 0 in the scale, which no source promises (N22 of spec/91_not_in_source.md); in a scale without one it is
returned an octave higher, which R144 forces. -/
def Obligations.QuantIdempotentOnStandardScale : Prop :=
  ∀ (cfg : Config) (k : Fin 16) (o n : Int), o ∈ stdScaleList (cfg.stdScale k) →
    ((o ≠ 12 ∨ 0 ∈ stdScaleList (cfg.stdScale k)) →
      quantOf cfg (n + (o : REAL) / 12) k.val 0 0 0 = n + (o : REAL) / 12) ∧
    (o = 12 → 0 ∉ stdScaleList (cfg.stdScale k) → quantOf cfg (n + (o : REAL) / 12) k.val 0 0 0 = n + 2)

/-! ### The integer-sequence player -/

/-- R160: the loop offset is congruent to start + pos·stride modulo the length and lies in the range of that length: upward
from start for a stride of 0 or more, downward for a negative one (D22); start for a length of 0 or less (D20); no
state changes. -/
def Obligations.LoopOffsetWalksTheRange : Prop :=
  ∀ (s : State) (pos : U32) (start len stride : S16), ∃ off : Int,
    exec (.iseqOffLoop pos start len stride) s = .next { s with ret := .int off } ∧
    (len.toInt ≤ 0 → off = start.toInt) ∧
    (0 < len.toInt → len.toInt ∣ off - (start.toInt + pos.toNat * stride.toInt) ∧
      (0 ≤ stride.toInt → start.toInt ≤ off ∧ off < start.toInt + len.toInt) ∧
      (stride.toInt < 0 → start.toInt - len.toInt < off ∧ off ≤ start.toInt))

/-- R162: the pendulum offset is start + q·stride for the position q in 0..len-1 that the walk of period 2·len - 2 folds
to; start for a length of 1 or less (D21); no state changes. -/
def Obligations.PendulumOffsetFolds : Prop :=
  ∀ (s : State) (pos : U32) (start len stride : S16), ∃ off : Int,
    exec (.iseqOffPend pos start len stride) s = .next { s with ret := .int off } ∧
    (len.toInt ≤ 1 → off = start.toInt) ∧
    (2 ≤ len.toInt → ∃ q : Int, 0 ≤ q ∧ q < len.toInt ∧ off = start.toInt + q * stride.toInt ∧
      (2 * len.toInt - 2 ∣ pos.toNat - q ∨ 2 * len.toInt - 2 ∣ pos.toNat + q))

/-- R163: with start 0 and stride 1 the offsets of one pendulum cycle are the forward run 0..L-1 and then the reverse run
L-2..1, and the next is 0 again. -/
def Obligations.PendulumSymmetry : Prop :=
  ∀ (s : State) (len : S16) (L : Nat), len.toInt = L → 2 ≤ L →
    ((List.range (2 * L - 2)).map fun p => exec (.iseqOffPend (BitVec.ofNat 32 p) 0 len 1) s) =
      (((List.range L).map fun q : Nat => (q : Int)) ++
        ((List.range (L - 2)).map fun q : Nat => ((L - 2 - q : Nat) : Int))).map
        (fun off => .next { s with ret := .int off }) ∧
    exec (.iseqOffPend (BitVec.ofNat 32 (2 * L - 2)) 0 len 1) s = .next { s with ret := .int 0 }

/-- R164: ISEQ.VAL reads the selected table at the offset modulo 128 (no table for a selector outside 0..9: 0), reduces the
value by ISEQ_MOD only above 1 and with the value's sign, takes its floored class modulo 12, and writes QUANT of
class/12 to OUT_ISEQ; nothing else changes. -/
def Obligations.IseqValReadsWrappedTable : Prop :=
  ∀ (s : State) (n : U4) (g : GenInst), s.insts[n.toNat]? = some g →
    ∃ raw pc : Int,
      (let q := quantOf Config.chip ((pc : REAL) / 12) (g.p .scale) (g.p .root) (g.p .transpose) (g.p .maskRot)
       exec (.iseqVal n) s = .next { s with insts := s.insts.set n.toNat { g with outIseq := q }, ret := .real q }) ∧
      (let off := if g.p .iseqDir = 1
          then offPend g.iseqPos.toNat (g.p .iseqStart) (g.p .iseqLen) (g.p .iseqStride)
          else offLoop g.iseqPos.toNat (g.p .iseqStart) (g.p .iseqLen) (g.p .iseqStride)
       ∀ (k : Fin 10) (a : Fin 128), (k.val : Int) = g.p .iseqSel → (a.val : Int) = off % 128 →
        raw = (Config.chip.iseqTable k a).toInt) ∧
      (g.p .iseqSel < 0 ∨ 9 < g.p .iseqSel → raw = 0) ∧
      pc = (if 1 < g.p .iseqMod then raw.tmod (g.p .iseqMod) else raw) % 12

/-- R168: ISEQ.ADV adds 1 to the position modulo 2^32 and changes nothing else, whatever the parameters. -/
def Obligations.IseqAdvRaisesPosition : Prop :=
  ∀ (s : State) (n : U4) (g : GenInst), s.insts[n.toNat]? = some g →
    ∃ p : U32, p.toNat = (g.iseqPos.toNat + 1) % 2 ^ 32 ∧
      exec (.iseqAdv n) s = .next { s with insts := s.insts.set n.toNat { g with iseqPos := p }, ret := .none }

/-! ### The noise bank -/

/-- R180: WHITE makes one RAND call and returns a sample in [-1, 1]; nothing but RNG changes. -/
def Obligations.WhiteIsInUnitRange : Prop :=
  ∀ s : State, ∃ w : REAL, -1 ≤ w ∧ w ≤ 1 ∧ w = whiteOf (advance 1 s.shared.rng) ∧
    exec .white s = .next { s with shared := { s.shared with rng := advance 1 s.shared.rng }, ret := .real w }

/-- R182: NOISE.WHITE returns the sample and reads and writes no filter state. -/
def Obligations.NoiseWhitePassesSample : Prop :=
  ∀ (s : State) (w : REAL), exec (.noiseWhite w) s = .next { s with ret := .real w }

/-- R184: NOISE.PINK moves the three poles independently, then returns the weighted sum of the NEW poles and a part of the
input (the order is decision D29); nothing else changes. -/
def Obligations.NoisePinkMovesThreePoles : Prop :=
  ∀ (s : State) (w : REAL), ∃ p : Vector REAL 3,
    (∀ k : Fin 3, p[k] = Config.chip.pinkLeak k * s.shared.pink[k] + Config.chip.pinkGain k * w) ∧
    exec (.noisePink w) s = .next { s with
      shared := { s.shared with pink := p }
      ret := .real (Config.chip.pinkW 0 * p[0] + Config.chip.pinkW 1 * p[1] + Config.chip.pinkW 2 * p[2]
        + Config.chip.pinkDirect * w) }

/-- R186: NOISE.BROWN is one leaky pole whose output is never clipped; nothing else changes. -/
def Obligations.NoiseBrownIsUnclipped : Prop :=
  ∀ (s : State) (w : REAL), ∃ b : REAL, b = Config.chip.brownLeak * s.shared.brown + Config.chip.brownGain * w ∧
    exec (.noiseBrown w) s = .next { s with shared := { s.shared with brown := b }, ret := .real (Config.chip.brownOut * b) }

/-- R188: NOISE.BLUE returns alpha·w with alpha = sr / (sr + 2π·100), never the stored sample, and stores w; the
denominator is positive, and sr = 0 gives 0 (the original's defect, kept by decision D30). -/
def Obligations.NoiseBlueScalesSample : Prop :=
  ∀ (s : State) (w : REAL) (sr : U32), ∃ out : REAL, 0 < (sr.toNat : REAL) + twoPi Config.chip * 100 ∧
    out * ((sr.toNat : REAL) + twoPi Config.chip * 100) = (sr.toNat : REAL) * w ∧ (sr = 0 → out = 0) ∧
    exec (.noiseBlue w sr) s = .next { s with shared := { s.shared with bluePrev := w }, ret := .real out }

/-- R190: NOISE draws the white sample always and once, then runs the selected filter only; outside 0..3 the output is 0
and no filter state changes (D27); it writes OUT_NOISE of its instance. -/
def Obligations.NoiseRunsSelectedFilterOnly : Prop :=
  ∀ (s : State) (n : U4) (g : GenInst), s.insts[n.toNat]? = some g →
    ∃ (out : REAL) (h : Shared),
      exec (.noise n) s = .next { s with
        shared := h, insts := s.insts.set n.toNat { g with outNoise := out }, ret := .real out } ∧
      (let rng := advance 1 s.shared.rng
       let w := whiteOf rng
       (g.p .noiseType = 0 → out = w ∧ h = { s.shared with rng := rng }) ∧
       (g.p .noiseType = 1 →
        (∀ k : Fin 3, h.pink[k] = Config.chip.pinkLeak k * s.shared.pink[k] + Config.chip.pinkGain k * w) ∧
        h = { s.shared with rng := rng, pink := h.pink } ∧
        out = Config.chip.pinkW 0 * h.pink[0] + Config.chip.pinkW 1 * h.pink[1] + Config.chip.pinkW 2 * h.pink[2]
          + Config.chip.pinkDirect * w) ∧
       (g.p .noiseType = 2 →
        h = { s.shared with rng := rng, brown := Config.chip.brownLeak * s.shared.brown + Config.chip.brownGain * w } ∧
        out = Config.chip.brownOut * h.brown) ∧
       (g.p .noiseType = 3 → h = { s.shared with rng := rng, bluePrev := w } ∧
        out = (s.inp.sr.toNat : REAL) / ((s.inp.sr.toNat : REAL) + twoPi Config.chip * 100) * w) ∧
       (g.p .noiseType < 0 ∨ 3 < g.p .noiseType → out = 0 ∧ h = { s.shared with rng := rng }))

/-- R184, corner cases (the spec marks this bound derived): with leaks of magnitude below 1 and samples in [-1, 1] a pole
that is within |gain| / (1 - |leak|) stays within it. -/
def Obligations.PinkPolesStayBounded : Prop :=
  ∀ (cfg : Config) (w : REAL) (h : Shared) (k : Fin 3), |cfg.pinkLeak k| < 1 → |w| ≤ 1 →
    |h.pink[k]| ≤ |cfg.pinkGain k| / (1 - |cfg.pinkLeak k|) →
    |(noisePinkOp cfg w h).1.pink[k]| ≤ |cfg.pinkGain k| / (1 - |cfg.pinkLeak k|)

/-- R24: "Its value never reaches any output": a step from two states that differ in BLUE_PREV alone ends in states that
differ in BLUE_PREV at most. -/
def Obligations.BluePrevNeverObserved : Prop :=
  ∀ (s t : State) (x : REAL), step s = .next t →
    ∃ y, step { s with shared := { s.shared with bluePrev := x } } =
      .next { t with shared := { t.shared with bluePrev := y } }

/-- R52, item 5 (derived there from R190): a STEP changes the pink, brown or blue state only when NOISE_TYPE selects that
filter. -/
def Obligations.FilterStateChangesOnlyWhenSelected : Prop :=
  ∀ (s t : State) (n : U4) (g : GenInst), s.insts[n.toNat]? = some g → exec (.step n) s = .next t →
    (g.p .noiseType ≠ 1 → t.shared.pink = s.shared.pink) ∧ (g.p .noiseType ≠ 2 → t.shared.brown = s.shared.brown) ∧
    (g.p .noiseType ≠ 3 → t.shared.bluePrev = s.shared.bluePrev)

/-! ### The clock/edge engine -/

/-- R200, with EDGE run on its own (log 18) and the returned bit standing in `ret` (log 8): EDGE returns 1 exactly when
the level is strictly above 1.0 and the latch is 0, and sets that input's latch to the current level; nothing else
changes. -/
def Obligations.EdgeDetectsRise : Prop :=
  ∀ (s : State) (n : U4) (g : GenInst) (level : REAL), s.insts[n.toNat]? = some g →
    exec (.edge n .clk level) s = .next { s with
      insts := s.insts.set n.toNat { g with clkPrev := decide (1 < level) }
      ret := .bit (decide (1 < level ∧ g.clkPrev = false)) } ∧
    exec (.edge n .trig level) s = .next { s with
      insts := s.insts.set n.toNat { g with trigPrev := decide (1 < level) }
      ret := .bit (decide (1 < level ∧ g.trigPrev = false)) }

/-- R204: DIVIDE raises the count; at the factor or above (above is decision D25) the output goes high and the count
returns to 0, otherwise it goes low; nothing else changes. -/
def Obligations.DivideCountsToFactor : Prop :=
  ∀ (s : State) (n : U4) (g : GenInst), s.insts[n.toNat]? = some g →
    (g.p .clkDiv ≤ (s.shared.divcnt.toNat : Int) + 1 →
      exec (.divide n) s = .next { s with
        shared := { s.shared with divcnt := 0 }
        insts := s.insts.set n.toNat { g with divOut := true }
        ret := .none }) ∧
    ((s.shared.divcnt.toNat : Int) + 1 < g.p .clkDiv →
      ∃ c : U16, c.toNat = s.shared.divcnt.toNat + 1 ∧
        exec (.divide n) s = .next { s with
          shared := { s.shared with divcnt := c }
          insts := s.insts.set n.toNat { g with divOut := false }
          ret := .none })

/-- R206: with the factor D constant and at least 1 and the count at 0, the output over N edges is high exactly on every
D-th edge, so on floor(N/D) of them. -/
def Obligations.DividerFiresEveryDthEdge : Prop :=
  ∀ (s : State) (n : U4) (g : GenInst) (D N : Nat), s.insts[n.toNat]? = some g → g.p .clkDiv = D → 1 ≤ D →
    s.shared.divcnt = 0 →
    ∃ outs t, divideMany n N s = some (outs, t) ∧ outs = (List.range N).map (fun j => decide (D ∣ j + 1)) ∧
      outs.count true = N / D

/-! ### STEP -/

/-- R215: STEP is its internal operations in the order of the rule's lines 1 to 8, the conditional ones on the edges just
detected, and then CMD_ERR <- 0. -/
def Obligations.StepIsItsOperationsInOrder : Prop :=
  ∀ (s : State) (n : U4), n.toNat < s.insts.length → exec (.step n) s = stepLines n s

/-- R215, R216: STEP of an instance the block has completes (R230; the cursor is below 64 between commands, R27), clears
CMD_ERR, latches both levels, and writes the output streams: OUT_RAW from the hexagram as it stands after the step,
OUT_QUANT from OUT_RAW, OUT_ISEQ from the position as it stands after the step, OUT_NOISE (for white noise) from the
generator as it stands after the step; DIV_OUT is kept when there is no clock edge and rewritten by R204 on one. -/
def Obligations.StepWritesAllStreams : Prop :=
  ∀ (s : State) (n : U4) (g : GenInst), s.insts[n.toNat]? = some g → g.cursor.toNat < 64 →
    ∃ t g', exec (.step n) s = .next t ∧
      t = { s with shared := t.shared, insts := s.insts.set n.toNat g', cmdErr := false } ∧
      g'.params = g.params ∧
      g'.clkPrev = decide (1 < q16Value s.inp.clkIn) ∧ g'.trigPrev = decide (1 < q16Value s.inp.trigIn) ∧
      g'.outRaw = Config.chip.hexCv g'.hexval ∧
      g'.outQuant = quantOf Config.chip g'.outRaw (g.p .scale) (g.p .root) (g.p .transpose) (g.p .maskRot) ∧
      g'.outIseq = quantOf Config.chip ((g'.seqClass Config.chip : REAL) / 12) (g.p .scale) (g.p .root)
        (g.p .transpose) (g.p .maskRot) ∧
      (g.p .noiseType = 0 → g'.outNoise = whiteOf t.shared.rng) ∧
      g'.iseqPos = (if risesTrig s g then g.iseqPos + 1 else g.iseqPos) ∧
      (¬ risesClk s g → g'.divOut = g.divOut) ∧
      (risesClk s g → g'.divOut = decide (g.p .clkDiv ≤ (s.shared.divcnt.toNat : Int) + 1))

/-- R217 (b) (derived there from R215): a STEP with no edge on either input changes only the two latches, RNG by one
advance, the noise state and the four output registers; OUT_RAW is HEX_CV of the unchanged hexagram. -/
def Obligations.StepWithoutEdgeChangesOutputsOnly : Prop :=
  ∀ (s : State) (n : U4) (g : GenInst), s.insts[n.toNat]? = some g → ¬ risesClk s g → ¬ risesTrig s g →
    ∃ t g', exec (.step n) s = .next t ∧
      t = { s with shared := t.shared, insts := s.insts.set n.toNat g', cmdErr := false } ∧
      t.shared.rng = advance 1 s.shared.rng ∧ t.shared.divcnt = s.shared.divcnt ∧
      g' = { g with clkPrev := g'.clkPrev, trigPrev := g'.trigPrev, outRaw := Config.chip.hexCv g.hexval
                    outQuant := g'.outQuant, outIseq := g'.outIseq, outNoise := g'.outNoise }

/-- R121, R217 (f): a STEP makes 1 RAND call, or 64 when its clock edge ends an epoch. -/
def Obligations.StepMakesOneOrSixtyFourRandCalls : Prop :=
  ∀ (s : State) (n : U4) (g : GenInst), s.insts[n.toNat]? = some g → g.cursor.toNat < 64 →
    ∃ t, exec (.step n) s = .next t ∧
      t.shared.rng = advance (if risesClk s g ∧ g.cursor.toNat = 63 then 64 else 1) s.shared.rng

/-- R126 (derived there): a STEP draws exactly when it detects a rising edge on the main clock. Without one, ORDER, CURSOR,
LINES stay; with one, the lines show the entry at the old cursor and the cursor moves on by one modulo 64. -/
def Obligations.DrawOnlyOnClockEdge : Prop :=
  ∀ (s : State) (n : U4) (g : GenInst) (hc : g.cursor.toNat < 64), s.insts[n.toNat]? = some g →
    ∃ t g', exec (.step n) s = .next t ∧ t.insts[n.toNat]? = some g' ∧
      (¬ risesClk s g → g'.order = g.order ∧ g'.cursor = g.cursor ∧ g'.lines = g.lines) ∧
      (risesClk s g → g'.hexval = g.order[g.cursor.toNat] ∧ g'.cursor.toNat = (g.cursor.toNat + 1) % 64 ∧
        (g.cursor.toNat ≠ 63 → g'.order = g.order))

/-- R20, R217 (d): a STEP never writes another instance's record, and nothing of the shell but CMD_ERR; for an absent
instance it sets CMD_ERR and changes nothing else (R86). -/
def Obligations.StepTouchesOneInstance : Prop :=
  ∀ (s t : State) (n : U4), exec (.step n) s = .next t →
    (∀ m, m ≠ n.toNat → t.insts[m]? = s.insts[m]?) ∧ t.insts.length = s.insts.length ∧ t.rdData = s.rdData ∧
    t.inp = s.inp ∧ t.host = s.host ∧ t.ret = s.ret ∧
    (s.insts.length ≤ n.toNat → t = { s with cmdErr := true })

/-- R126, R243: another instance's record has no effect on a STEP: replace it before or after, the result is the same. -/
def Obligations.OtherInstancesHaveNoEffect : Prop :=
  ∀ (s t : State) (n : U4) (m : Nat) (x : GenInst), m ≠ n.toNat → exec (.step n) s = .next t →
    exec (.step n) { s with insts := s.insts.set m x } = .next { t with insts := t.insts.set m x }

/-! ### Ports -/

/-- The ports carry the registers (R50, R271; the shell is decision D3): RD_DATA, CMD_ERR and, for each instance the block
has, DIV_OUT and the port format OUT_FMT (open, log 12) of each of the four registers, none for an absent one; after a
command a run shows RD_DATA and CMD_ERR always, and the streams of the instance that the command steps (log 21).
OUT_FMT's default (R50) gives a Q16.16 value for every real, a Q16.16 value unchanged; within the range it is within
half of 1/65536, and at exactly that distance the word is even; outside it saturates. -/
def Obligations.OutputPortsCarryRegistersInPortFormat : Prop :=
  (∀ s : State,
    (s.outPorts Config.chip).rdData = s.rdData ∧ (s.outPorts Config.chip).cmdErr = s.cmdErr ∧
    s.observe.rdData = s.rdData ∧ s.observe.cmdErr = s.cmdErr ∧
    (∀ (n : U4) (g : GenInst), s.insts[n.toNat]? = some g →
      ∃ v : Streams, s.streamsOf Config.chip n = some v ∧ (s.outPorts Config.chip).streams[n.toNat]? = some v ∧
        v.outRaw = Config.chip.outFmt g.outRaw ∧ v.outQuant = Config.chip.outFmt g.outQuant ∧
        v.outIseq = Config.chip.outFmt g.outIseq ∧ v.outNoise = Config.chip.outFmt g.outNoise ∧ v.divOut = g.divOut) ∧
    (∀ n : U4, s.insts.length ≤ n.toNat →
      s.streamsOf Config.chip n = none ∧ (s.outPorts Config.chip).streams[n.toNat]? = none) ∧
    (∀ n : U4, s.inp.isCommand = true → decode s.inp.cmd = .ok (.step n) →
      s.observe.streams = s.streamsOf Config.chip n) ∧
    (s.inp.isCommand = false ∨ (∀ n : U4, decode s.inp.cmd ≠ .ok (.step n)) → s.observe.streams = none)) ∧
  (∀ x : REAL, ∃ w : S32, q16Out x = q16Value w ∧
    (-32768 ≤ x → x ≤ 2147483647 / 65536 →
      |q16Out x - x| ≤ 1 / 131072 ∧ (|q16Out x - x| = 1 / 131072 → 2 ∣ w.toInt))) ∧
  (∀ w : S32, q16Out (q16Value w) = q16Value w) ∧
  (∀ x : REAL, 2147483647 / 65536 ≤ x → q16Out x = 2147483647 / 65536) ∧
  (∀ x : REAL, x ≤ -32768 → q16Out x = -32768)
end

