-- ==== Sys2Proof/Laws/Encoding.lean ====
section
/-! SUPPORT. The fields of a command word as numbers, and the word of four fields taken apart again: what later proofs
about decode and encode cite instead of unfolding bit-vector operations. -/

namespace Sys2Proof

theorem opField_toNat (w : U32) : (opField w).toNat = w.toNat / 2 ^ 28 := by
  have := w.isLt
  simp only [opField, BitVec.extractLsb'_toNat, Nat.shiftRight_eq_div_pow]
  omega

theorem instField_toNat (w : U32) : (instField w).toNat = w.toNat / 2 ^ 24 % 16 := by
  simp only [instField, BitVec.extractLsb'_toNat, Nat.shiftRight_eq_div_pow]

theorem idxField_toNat (w : U32) : (idxField w).toNat = w.toNat / 2 ^ 16 % 256 := by
  simp only [idxField, BitVec.extractLsb'_toNat, Nat.shiftRight_eq_div_pow]

theorem immField_toNat (w : U32) : (immField w).toNat = w.toNat % 2 ^ 16 := by
  simp only [immField, BitVec.extractLsb'_toNat, Nat.shiftRight_zero]

theorem commandWord_toNat (op inst : U4) (idx : U8) (imm : S16) :
    (commandWord op inst idx imm).toNat = op.toNat * 2 ^ 28 + inst.toNat * 2 ^ 24 + idx.toNat * 2 ^ 16 + imm.toNat := by
  have h1 := inst.isLt
  have h2 := idx.isLt
  have h3 := imm.isLt
  change (op ++ inst ++ idx ++ imm : BitVec (4 + 4 + 8 + 16)).toNat = _
  rw [BitVec.toNat_append, BitVec.toNat_append, BitVec.toNat_append, ← Nat.shiftLeft_add_eq_or_of_lt h3,
    ← Nat.shiftLeft_add_eq_or_of_lt h2, ← Nat.shiftLeft_add_eq_or_of_lt h1]
  simp only [Nat.shiftLeft_eq]
  omega

theorem opField_commandWord (op inst : U4) (idx : U8) (imm : S16) : opField (commandWord op inst idx imm) = op := by
  apply BitVec.eq_of_toNat_eq
  rw [opField_toNat, commandWord_toNat]
  omega

theorem instField_commandWord (op inst : U4) (idx : U8) (imm : S16) : instField (commandWord op inst idx imm) = inst := by
  apply BitVec.eq_of_toNat_eq
  rw [instField_toNat, commandWord_toNat]
  omega

theorem idxField_commandWord (op inst : U4) (idx : U8) (imm : S16) : idxField (commandWord op inst idx imm) = idx := by
  apply BitVec.eq_of_toNat_eq
  rw [idxField_toNat, commandWord_toNat]
  omega

theorem immField_commandWord (op inst : U4) (idx : U8) (imm : S16) : immField (commandWord op inst idx imm) = imm := by
  apply BitVec.eq_of_toNat_eq
  rw [immField_toNat, commandWord_toNat]
  omega

/-- A word is the word of its own four fields. -/
theorem commandWord_fields (w : U32) : commandWord (opField w) (instField w) (idxField w) (immField w) = w := by
  apply BitVec.eq_of_toNat_eq
  rw [commandWord_toNat, opField_toNat, instField_toNat, idxField_toNat, immField_toNat]
  omega

/-- All that decode can answer (R83): the opcode, and the fields that must be zero. -/
theorem decode_ok_cases {w : U32} {i : Instr} (h : decode w = .ok i) :
    ((opField w).toNat = 0 ∧ instField w = 0 ∧ idxField w = 0 ∧ immField w = 0 ∧ i = .nop) ∨
    ((opField w).toNat = 1 ∧ idxField w = 0 ∧ immField w = 0 ∧ i = .step (instField w)) ∨
    ((opField w).toNat = 2 ∧ (idxField w).toNat < 16 ∧ i = .wrparam (instField w) (idxField w) (immField w)) ∨
    ((opField w).toNat = 3 ∧ (idxField w).toNat < 16 ∧ immField w = 0 ∧ i = .rdparam (instField w) (idxField w)) ∨
    ((opField w).toNat = 4 ∧ idxField w = 0 ∧ immField w = 0 ∧ i = .rdhex (instField w)) := by
  unfold decode at h
  split at h
  · split at h
    · rename_i h0 hz
      cases h
      exact .inl ⟨h0, hz.1, hz.2.1, hz.2.2, rfl⟩
    · cases h
  · split at h
    · rename_i h0 hz
      cases h
      exact .inr (.inl ⟨h0, hz.1, hz.2, rfl⟩)
    · cases h
  · split at h
    · rename_i h0 hz
      cases h
      exact .inr (.inr (.inl ⟨h0, hz, rfl⟩))
    · cases h
  · split at h
    · cases h
    · split at h
      · rename_i h0 hi hz
        cases h
        exact .inr (.inr (.inr (.inl ⟨h0, hz, by simpa using hi, rfl⟩)))
      · cases h
  · split at h
    · rename_i h0 hz
      cases h
      exact .inr (.inr (.inr (.inr ⟨h0, hz.1, hz.2, rfl⟩)))
    · cases h
  · cases h

end Sys2Proof
end

