-- ==== Sys2Proof/Laws/State.lean ====
section
/-! SUPPORT. One lemma per field per update of State, so that no later proof unfolds a record update. -/

namespace Sys2Proof.Machine

@[simp] theorem State.accepted_shared (s : State) : s.accepted.shared = s.shared := rfl
@[simp] theorem State.accepted_insts (s : State) : s.accepted.insts = s.insts := rfl
@[simp] theorem State.accepted_rdData (s : State) : s.accepted.rdData = s.rdData := rfl
@[simp] theorem State.accepted_cmdErr (s : State) : s.accepted.cmdErr = false := rfl
@[simp] theorem State.accepted_inp (s : State) : s.accepted.inp = s.inp := rfl
@[simp] theorem State.accepted_host (s : State) : s.accepted.host = s.host := rfl
@[simp] theorem State.accepted_ret (s : State) : s.accepted.ret = s.ret := rfl

@[simp] theorem State.notAccepted_shared (s : State) : s.notAccepted.shared = s.shared := rfl
@[simp] theorem State.notAccepted_insts (s : State) : s.notAccepted.insts = s.insts := rfl
@[simp] theorem State.notAccepted_rdData (s : State) : s.notAccepted.rdData = s.rdData := rfl
@[simp] theorem State.notAccepted_cmdErr (s : State) : s.notAccepted.cmdErr = true := rfl
@[simp] theorem State.notAccepted_inp (s : State) : s.notAccepted.inp = s.inp := rfl
@[simp] theorem State.notAccepted_host (s : State) : s.notAccepted.host = s.host := rfl
@[simp] theorem State.notAccepted_ret (s : State) : s.notAccepted.ret = s.ret := rfl

@[simp] theorem State.withRet_shared (s : State) (v : Ret) : (s.withRet v).shared = s.shared := rfl
@[simp] theorem State.withRet_insts (s : State) (v : Ret) : (s.withRet v).insts = s.insts := rfl
@[simp] theorem State.withRet_rdData (s : State) (v : Ret) : (s.withRet v).rdData = s.rdData := rfl
@[simp] theorem State.withRet_cmdErr (s : State) (v : Ret) : (s.withRet v).cmdErr = s.cmdErr := rfl
@[simp] theorem State.withRet_inp (s : State) (v : Ret) : (s.withRet v).inp = s.inp := rfl
@[simp] theorem State.withRet_host (s : State) (v : Ret) : (s.withRet v).host = s.host := rfl
@[simp] theorem State.withRet_ret (s : State) (v : Ret) : (s.withRet v).ret = v := rfl

@[simp] theorem State.putReach_shared (s : State) (n : U4) (r : Reach) : (s.putReach n r).shared = r.shared := rfl
@[simp] theorem State.putReach_insts (s : State) (n : U4) (r : Reach) : (s.putReach n r).insts = s.insts.set n.toNat r.inst := rfl
@[simp] theorem State.putReach_rdData (s : State) (n : U4) (r : Reach) : (s.putReach n r).rdData = s.rdData := rfl
@[simp] theorem State.putReach_cmdErr (s : State) (n : U4) (r : Reach) : (s.putReach n r).cmdErr = s.cmdErr := rfl
@[simp] theorem State.putReach_inp (s : State) (n : U4) (r : Reach) : (s.putReach n r).inp = s.inp := rfl
@[simp] theorem State.putReach_host (s : State) (n : U4) (r : Reach) : (s.putReach n r).host = s.host := rfl
@[simp] theorem State.putReach_ret (s : State) (n : U4) (r : Reach) : (s.putReach n r).ret = s.ret := rfl

@[simp] theorem State.putInst_shared (s : State) (n : U4) (g : GenInst) : (s.putInst n g).shared = s.shared := rfl
@[simp] theorem State.putInst_insts (s : State) (n : U4) (g : GenInst) : (s.putInst n g).insts = s.insts.set n.toNat g := rfl
@[simp] theorem State.putInst_rdData (s : State) (n : U4) (g : GenInst) : (s.putInst n g).rdData = s.rdData := rfl
@[simp] theorem State.putInst_cmdErr (s : State) (n : U4) (g : GenInst) : (s.putInst n g).cmdErr = s.cmdErr := rfl
@[simp] theorem State.putInst_inp (s : State) (n : U4) (g : GenInst) : (s.putInst n g).inp = s.inp := rfl
@[simp] theorem State.putInst_host (s : State) (n : U4) (g : GenInst) : (s.putInst n g).host = s.host := rfl
@[simp] theorem State.putInst_ret (s : State) (n : U4) (g : GenInst) : (s.putInst n g).ret = s.ret := rfl

@[simp] theorem State.drive_shared (s : State) (p : InPorts) (rest : List InPorts) : (s.drive p rest).shared = s.shared := rfl
@[simp] theorem State.drive_insts (s : State) (p : InPorts) (rest : List InPorts) : (s.drive p rest).insts = s.insts := rfl
@[simp] theorem State.drive_rdData (s : State) (p : InPorts) (rest : List InPorts) : (s.drive p rest).rdData = s.rdData := rfl
@[simp] theorem State.drive_cmdErr (s : State) (p : InPorts) (rest : List InPorts) : (s.drive p rest).cmdErr = s.cmdErr := rfl
@[simp] theorem State.drive_inp (s : State) (p : InPorts) (rest : List InPorts) : (s.drive p rest).inp = p := rfl
@[simp] theorem State.drive_host (s : State) (p : InPorts) (rest : List InPorts) : (s.drive p rest).host = rest := rfl
@[simp] theorem State.drive_ret (s : State) (p : InPorts) (rest : List InPorts) : (s.drive p rest).ret = s.ret := rfl

@[simp] theorem GenInst.setPrev_order (g : GenInst) (i : EdgeInput) (h : Bool) : (g.setPrev i h).order = g.order := by
  cases i <;> rfl
@[simp] theorem GenInst.setPrev_cursor (g : GenInst) (i : EdgeInput) (h : Bool) : (g.setPrev i h).cursor = g.cursor := by
  cases i <;> rfl
@[simp] theorem GenInst.setPrev_lines (g : GenInst) (i : EdgeInput) (h : Bool) : (g.setPrev i h).lines = g.lines := by
  cases i <;> rfl
@[simp] theorem GenInst.setPrev_iseqPos (g : GenInst) (i : EdgeInput) (h : Bool) : (g.setPrev i h).iseqPos = g.iseqPos := by
  cases i <;> rfl
@[simp] theorem GenInst.setPrev_divOut (g : GenInst) (i : EdgeInput) (h : Bool) : (g.setPrev i h).divOut = g.divOut := by
  cases i <;> rfl
@[simp] theorem GenInst.setPrev_params (g : GenInst) (i : EdgeInput) (h : Bool) : (g.setPrev i h).params = g.params := by
  cases i <;> rfl
@[simp] theorem GenInst.setPrev_outRaw (g : GenInst) (i : EdgeInput) (h : Bool) : (g.setPrev i h).outRaw = g.outRaw := by
  cases i <;> rfl
@[simp] theorem GenInst.setPrev_outQuant (g : GenInst) (i : EdgeInput) (h : Bool) : (g.setPrev i h).outQuant = g.outQuant := by
  cases i <;> rfl
@[simp] theorem GenInst.setPrev_outIseq (g : GenInst) (i : EdgeInput) (h : Bool) : (g.setPrev i h).outIseq = g.outIseq := by
  cases i <;> rfl
@[simp] theorem GenInst.setPrev_outNoise (g : GenInst) (i : EdgeInput) (h : Bool) : (g.setPrev i h).outNoise = g.outNoise := by
  cases i <;> rfl
@[simp] theorem GenInst.setPrev_clk_clkPrev (g : GenInst) (h : Bool) : (g.setPrev .clk h).clkPrev = h := rfl
@[simp] theorem GenInst.setPrev_clk_trigPrev (g : GenInst) (h : Bool) : (g.setPrev .clk h).trigPrev = g.trigPrev := rfl
@[simp] theorem GenInst.setPrev_trig_trigPrev (g : GenInst) (h : Bool) : (g.setPrev .trig h).trigPrev = h := rfl
@[simp] theorem GenInst.setPrev_trig_clkPrev (g : GenInst) (h : Bool) : (g.setPrev .trig h).clkPrev = g.clkPrev := rfl

@[simp] theorem edgeOp_order (i : EdgeInput) (l : REAL) (r : Reach) : (edgeOp i l r).inst.order = r.inst.order := by
  cases i <;> rfl
@[simp] theorem edgeOp_cursor (i : EdgeInput) (l : REAL) (r : Reach) : (edgeOp i l r).inst.cursor = r.inst.cursor := by
  cases i <;> rfl
@[simp] theorem edgeOp_lines (i : EdgeInput) (l : REAL) (r : Reach) : (edgeOp i l r).inst.lines = r.inst.lines := by
  cases i <;> rfl
@[simp] theorem edgeOp_iseqPos (i : EdgeInput) (l : REAL) (r : Reach) : (edgeOp i l r).inst.iseqPos = r.inst.iseqPos := by
  cases i <;> rfl
@[simp] theorem edgeOp_divOut (i : EdgeInput) (l : REAL) (r : Reach) : (edgeOp i l r).inst.divOut = r.inst.divOut := by
  cases i <;> rfl
@[simp] theorem edgeOp_params (i : EdgeInput) (l : REAL) (r : Reach) : (edgeOp i l r).inst.params = r.inst.params := by
  cases i <;> rfl
@[simp] theorem edgeOp_outRaw (i : EdgeInput) (l : REAL) (r : Reach) : (edgeOp i l r).inst.outRaw = r.inst.outRaw := by
  cases i <;> rfl
@[simp] theorem edgeOp_outQuant (i : EdgeInput) (l : REAL) (r : Reach) : (edgeOp i l r).inst.outQuant = r.inst.outQuant := by
  cases i <;> rfl
@[simp] theorem edgeOp_outIseq (i : EdgeInput) (l : REAL) (r : Reach) : (edgeOp i l r).inst.outIseq = r.inst.outIseq := by
  cases i <;> rfl
@[simp] theorem edgeOp_outNoise (i : EdgeInput) (l : REAL) (r : Reach) : (edgeOp i l r).inst.outNoise = r.inst.outNoise := by
  cases i <;> rfl
@[simp] theorem edgeOp_shared (i : EdgeInput) (l : REAL) (r : Reach) : (edgeOp i l r).shared = r.shared := rfl

@[simp] theorem shuffleOp_cursor (cfg : Config) (r : Reach) : (shuffleOp cfg r).inst.cursor = r.inst.cursor := rfl
@[simp] theorem shuffleOp_lines (cfg : Config) (r : Reach) : (shuffleOp cfg r).inst.lines = r.inst.lines := rfl
@[simp] theorem shuffleOp_clkPrev (cfg : Config) (r : Reach) : (shuffleOp cfg r).inst.clkPrev = r.inst.clkPrev := rfl
@[simp] theorem shuffleOp_iseqPos (cfg : Config) (r : Reach) : (shuffleOp cfg r).inst.iseqPos = r.inst.iseqPos := rfl
@[simp] theorem shuffleOp_trigPrev (cfg : Config) (r : Reach) : (shuffleOp cfg r).inst.trigPrev = r.inst.trigPrev := rfl
@[simp] theorem shuffleOp_divOut (cfg : Config) (r : Reach) : (shuffleOp cfg r).inst.divOut = r.inst.divOut := rfl
@[simp] theorem shuffleOp_params (cfg : Config) (r : Reach) : (shuffleOp cfg r).inst.params = r.inst.params := rfl
@[simp] theorem shuffleOp_outRaw (cfg : Config) (r : Reach) : (shuffleOp cfg r).inst.outRaw = r.inst.outRaw := rfl
@[simp] theorem shuffleOp_outQuant (cfg : Config) (r : Reach) : (shuffleOp cfg r).inst.outQuant = r.inst.outQuant := rfl
@[simp] theorem shuffleOp_outIseq (cfg : Config) (r : Reach) : (shuffleOp cfg r).inst.outIseq = r.inst.outIseq := rfl
@[simp] theorem shuffleOp_outNoise (cfg : Config) (r : Reach) : (shuffleOp cfg r).inst.outNoise = r.inst.outNoise := rfl

@[simp] theorem hexcvOp_order (cfg : Config) (r : Reach) : (hexcvOp cfg r).inst.order = r.inst.order := rfl
@[simp] theorem hexcvOp_cursor (cfg : Config) (r : Reach) : (hexcvOp cfg r).inst.cursor = r.inst.cursor := rfl
@[simp] theorem hexcvOp_lines (cfg : Config) (r : Reach) : (hexcvOp cfg r).inst.lines = r.inst.lines := rfl
@[simp] theorem hexcvOp_clkPrev (cfg : Config) (r : Reach) : (hexcvOp cfg r).inst.clkPrev = r.inst.clkPrev := rfl
@[simp] theorem hexcvOp_iseqPos (cfg : Config) (r : Reach) : (hexcvOp cfg r).inst.iseqPos = r.inst.iseqPos := rfl
@[simp] theorem hexcvOp_trigPrev (cfg : Config) (r : Reach) : (hexcvOp cfg r).inst.trigPrev = r.inst.trigPrev := rfl
@[simp] theorem hexcvOp_divOut (cfg : Config) (r : Reach) : (hexcvOp cfg r).inst.divOut = r.inst.divOut := rfl
@[simp] theorem hexcvOp_params (cfg : Config) (r : Reach) : (hexcvOp cfg r).inst.params = r.inst.params := rfl
@[simp] theorem hexcvOp_outQuant (cfg : Config) (r : Reach) : (hexcvOp cfg r).inst.outQuant = r.inst.outQuant := rfl
@[simp] theorem hexcvOp_outIseq (cfg : Config) (r : Reach) : (hexcvOp cfg r).inst.outIseq = r.inst.outIseq := rfl
@[simp] theorem hexcvOp_outNoise (cfg : Config) (r : Reach) : (hexcvOp cfg r).inst.outNoise = r.inst.outNoise := rfl
@[simp] theorem hexcvOp_shared (cfg : Config) (r : Reach) : (hexcvOp cfg r).shared = r.shared := rfl

@[simp] theorem quantRawOp_order (cfg : Config) (r : Reach) : (quantRawOp cfg r).inst.order = r.inst.order := rfl
@[simp] theorem quantRawOp_cursor (cfg : Config) (r : Reach) : (quantRawOp cfg r).inst.cursor = r.inst.cursor := rfl
@[simp] theorem quantRawOp_lines (cfg : Config) (r : Reach) : (quantRawOp cfg r).inst.lines = r.inst.lines := rfl
@[simp] theorem quantRawOp_clkPrev (cfg : Config) (r : Reach) : (quantRawOp cfg r).inst.clkPrev = r.inst.clkPrev := rfl
@[simp] theorem quantRawOp_iseqPos (cfg : Config) (r : Reach) : (quantRawOp cfg r).inst.iseqPos = r.inst.iseqPos := rfl
@[simp] theorem quantRawOp_trigPrev (cfg : Config) (r : Reach) : (quantRawOp cfg r).inst.trigPrev = r.inst.trigPrev := rfl
@[simp] theorem quantRawOp_divOut (cfg : Config) (r : Reach) : (quantRawOp cfg r).inst.divOut = r.inst.divOut := rfl
@[simp] theorem quantRawOp_params (cfg : Config) (r : Reach) : (quantRawOp cfg r).inst.params = r.inst.params := rfl
@[simp] theorem quantRawOp_outRaw (cfg : Config) (r : Reach) : (quantRawOp cfg r).inst.outRaw = r.inst.outRaw := rfl
@[simp] theorem quantRawOp_outIseq (cfg : Config) (r : Reach) : (quantRawOp cfg r).inst.outIseq = r.inst.outIseq := rfl
@[simp] theorem quantRawOp_outNoise (cfg : Config) (r : Reach) : (quantRawOp cfg r).inst.outNoise = r.inst.outNoise := rfl
@[simp] theorem quantRawOp_shared (cfg : Config) (r : Reach) : (quantRawOp cfg r).shared = r.shared := rfl

@[simp] theorem iseqValOp_order (cfg : Config) (r : Reach) : (iseqValOp cfg r).inst.order = r.inst.order := rfl
@[simp] theorem iseqValOp_cursor (cfg : Config) (r : Reach) : (iseqValOp cfg r).inst.cursor = r.inst.cursor := rfl
@[simp] theorem iseqValOp_lines (cfg : Config) (r : Reach) : (iseqValOp cfg r).inst.lines = r.inst.lines := rfl
@[simp] theorem iseqValOp_clkPrev (cfg : Config) (r : Reach) : (iseqValOp cfg r).inst.clkPrev = r.inst.clkPrev := rfl
@[simp] theorem iseqValOp_iseqPos (cfg : Config) (r : Reach) : (iseqValOp cfg r).inst.iseqPos = r.inst.iseqPos := rfl
@[simp] theorem iseqValOp_trigPrev (cfg : Config) (r : Reach) : (iseqValOp cfg r).inst.trigPrev = r.inst.trigPrev := rfl
@[simp] theorem iseqValOp_divOut (cfg : Config) (r : Reach) : (iseqValOp cfg r).inst.divOut = r.inst.divOut := rfl
@[simp] theorem iseqValOp_params (cfg : Config) (r : Reach) : (iseqValOp cfg r).inst.params = r.inst.params := rfl
@[simp] theorem iseqValOp_outRaw (cfg : Config) (r : Reach) : (iseqValOp cfg r).inst.outRaw = r.inst.outRaw := rfl
@[simp] theorem iseqValOp_outQuant (cfg : Config) (r : Reach) : (iseqValOp cfg r).inst.outQuant = r.inst.outQuant := rfl
@[simp] theorem iseqValOp_outNoise (cfg : Config) (r : Reach) : (iseqValOp cfg r).inst.outNoise = r.inst.outNoise := rfl
@[simp] theorem iseqValOp_shared (cfg : Config) (r : Reach) : (iseqValOp cfg r).shared = r.shared := rfl

@[simp] theorem iseqAdvOp_order (r : Reach) : (iseqAdvOp r).inst.order = r.inst.order := rfl
@[simp] theorem iseqAdvOp_cursor (r : Reach) : (iseqAdvOp r).inst.cursor = r.inst.cursor := rfl
@[simp] theorem iseqAdvOp_lines (r : Reach) : (iseqAdvOp r).inst.lines = r.inst.lines := rfl
@[simp] theorem iseqAdvOp_clkPrev (r : Reach) : (iseqAdvOp r).inst.clkPrev = r.inst.clkPrev := rfl
@[simp] theorem iseqAdvOp_trigPrev (r : Reach) : (iseqAdvOp r).inst.trigPrev = r.inst.trigPrev := rfl
@[simp] theorem iseqAdvOp_divOut (r : Reach) : (iseqAdvOp r).inst.divOut = r.inst.divOut := rfl
@[simp] theorem iseqAdvOp_params (r : Reach) : (iseqAdvOp r).inst.params = r.inst.params := rfl
@[simp] theorem iseqAdvOp_outRaw (r : Reach) : (iseqAdvOp r).inst.outRaw = r.inst.outRaw := rfl
@[simp] theorem iseqAdvOp_outQuant (r : Reach) : (iseqAdvOp r).inst.outQuant = r.inst.outQuant := rfl
@[simp] theorem iseqAdvOp_outIseq (r : Reach) : (iseqAdvOp r).inst.outIseq = r.inst.outIseq := rfl
@[simp] theorem iseqAdvOp_outNoise (r : Reach) : (iseqAdvOp r).inst.outNoise = r.inst.outNoise := rfl
@[simp] theorem iseqAdvOp_shared (r : Reach) : (iseqAdvOp r).shared = r.shared := rfl

@[simp] theorem noiseOp_order (cfg : Config) (sr : U32) (r : Reach) : (noiseOp cfg sr r).inst.order = r.inst.order := rfl
@[simp] theorem noiseOp_cursor (cfg : Config) (sr : U32) (r : Reach) : (noiseOp cfg sr r).inst.cursor = r.inst.cursor := rfl
@[simp] theorem noiseOp_lines (cfg : Config) (sr : U32) (r : Reach) : (noiseOp cfg sr r).inst.lines = r.inst.lines := rfl
@[simp] theorem noiseOp_clkPrev (cfg : Config) (sr : U32) (r : Reach) : (noiseOp cfg sr r).inst.clkPrev = r.inst.clkPrev := rfl
@[simp] theorem noiseOp_iseqPos (cfg : Config) (sr : U32) (r : Reach) : (noiseOp cfg sr r).inst.iseqPos = r.inst.iseqPos := rfl
@[simp] theorem noiseOp_trigPrev (cfg : Config) (sr : U32) (r : Reach) : (noiseOp cfg sr r).inst.trigPrev = r.inst.trigPrev := rfl
@[simp] theorem noiseOp_divOut (cfg : Config) (sr : U32) (r : Reach) : (noiseOp cfg sr r).inst.divOut = r.inst.divOut := rfl
@[simp] theorem noiseOp_params (cfg : Config) (sr : U32) (r : Reach) : (noiseOp cfg sr r).inst.params = r.inst.params := rfl
@[simp] theorem noiseOp_outRaw (cfg : Config) (sr : U32) (r : Reach) : (noiseOp cfg sr r).inst.outRaw = r.inst.outRaw := rfl
@[simp] theorem noiseOp_outQuant (cfg : Config) (sr : U32) (r : Reach) : (noiseOp cfg sr r).inst.outQuant = r.inst.outQuant := rfl
@[simp] theorem noiseOp_outIseq (cfg : Config) (sr : U32) (r : Reach) : (noiseOp cfg sr r).inst.outIseq = r.inst.outIseq := rfl

end Sys2Proof.Machine
end

