-- ==== Sys2Proof/Laws/Ops.lean ====
section
/-! SUPPORT. For each shared operation one lemma that says once what it can do; later proofs cite it instead of
unfolding the operation. -/

namespace Sys2Proof.Machine

/-! ### Access to instances -/

theorem State.inst?_eq_some {s : State} {n : U4} {g : GenInst} (h : s.inst? n = some g) :
    n.toNat < s.insts.length ∧ g ∈ s.insts := by
  unfold State.inst? at h
  exact ⟨(List.getElem?_eq_some_iff.mp h).1, List.mem_of_getElem? h⟩

theorem State.inst?_eq_none {s : State} {n : U4} (h : s.inst? n = none) : s.insts.length ≤ n.toNat := by
  unfold State.inst? at h
  exact List.getElem?_eq_none_iff.mp h

@[simp] theorem State.reach?_eq_some_iff {s : State} {n : U4} {r : Reach} :
    s.reach? n = some r ↔ s.inst? n = some r.inst ∧ r.shared = s.shared := by
  unfold State.reach?
  cases h : s.inst? n with
  | none => simp
  | some g =>
    cases r
    simp only [Option.some.injEq, Reach.mk.injEq]
    exact ⟨fun ⟨a, b⟩ => ⟨b, a.symm⟩, fun ⟨a, b⟩ => ⟨b.symm, a⟩⟩

@[simp] theorem State.reach?_eq_none_iff {s : State} {n : U4} : s.reach? n = none ↔ s.inst? n = none := by
  unfold State.reach?
  cases s.inst? n <;> simp

theorem State.reach?_of_inst? {s : State} {n : U4} {g : GenInst} (h : s.inst? n = some g) :
    s.reach? n = some ⟨s.shared, g⟩ := by
  simp [h]

/-- What an internal operation of one instance can do when run on its own. -/
theorem runOn_next {n : U4} {s t : State} {op : Reach → Option (Reach × Ret)} (h : runOn n s op = .next t) :
    ∃ g r' v, s.inst? n = some g ∧ op ⟨s.shared, g⟩ = some (r', v) ∧ t = (s.putReach n r').withRet v := by
  unfold runOn at h
  cases hr : s.reach? n with
  | none => simp [hr] at h
  | some r =>
    have h' := State.reach?_eq_some_iff.mp hr
    obtain ⟨sh, g⟩ := r
    obtain ⟨hg, rfl⟩ := h'
    cases ho : op ⟨s.shared, g⟩ with
    | none => simp [hr, ho] at h
    | some p =>
      obtain ⟨r', v⟩ := p
      simp only [hr, ho, Host.Outcome.next.injEq] at h
      exact ⟨g, r', v, hg, ho, h.symm⟩

/-- An internal operation of an instance the block has completes where its effect is defined. -/
theorem runOn_of_inst {n : U4} {s : State} {g : GenInst} {op : Reach → Option (Reach × Ret)} {r' : Reach} {v : Ret}
    (hg : s.inst? n = some g) (ho : op ⟨s.shared, g⟩ = some (r', v)) :
    runOn n s op = .next ((s.putReach n r').withRet v) := by
  unfold runOn
  simp [State.reach?_of_inst? hg, ho]

/-! ### The generator and the shuffle -/

theorem exchange_perm (o : Vector U6 64) (k j : Nat) : (exchange o k j).toList.Perm o.toList := by
  unfold exchange
  split
  · rename_i h
    exact Vector.perm_iff_toList_perm.mp (Vector.swap_perm h.1 h.2)
  · exact List.Perm.refl _

theorem shuffleFrom_perm (cfg : Config) (k : Nat) (rng : U32) (o : Vector U6 64) :
    (shuffleFrom cfg k rng o).2.toList.Perm o.toList := by
  induction k generalizing rng o with
  | zero => exact List.Perm.refl _
  | succ k ih => exact (ih _ _).trans (exchange_perm _ _ _)

theorem shuffleFrom_rng (cfg : Config) (k : Nat) (rng : U32) (o : Vector U6 64) :
    (shuffleFrom cfg k rng o).1 = cfg.rngNext^[k] rng := by
  induction k generalizing rng o with
  | zero => rfl
  | succ k ih => rw [shuffleFrom, ih, Function.iterate_succ_apply]; rfl

theorem shuffleOrder_perm (cfg : Config) (rng : U32) (o : Vector U6 64) :
    (shuffleOrder cfg rng o).2.toList.Perm o.toList := shuffleFrom_perm cfg 63 rng o

theorem shuffleOrder_rng (cfg : Config) (rng : U32) (o : Vector U6 64) :
    (shuffleOrder cfg rng o).1 = cfg.rngNext^[63] rng := shuffleFrom_rng cfg 63 rng o

/-! ### Drawing -/

theorem readOrder_of_lt {g : GenInst} {a : Nat} (h : a < 64) : g.readOrder a = some g.order[a] := by
  simp [GenInst.readOrder, h]

theorem hexOf_linesOf (h : U6) : hexOf (linesOf h) = h := by
  revert h
  decide

/-- All that a draw can do (R124): the entry at the cursor goes to the lines, and either the cursor rises by 1 or the
epoch ends with a shuffle. -/
theorem drawOp_cases {cfg : Config} {r r' : Reach} (h : drawOp cfg r = some r') :
    ∃ hc : r.inst.cursor.toNat < 64,
      (r.inst.cursor.toNat < 63 ∧
        r' = { r with inst := { r.inst with lines := linesOf r.inst.order[r.inst.cursor.toNat], cursor := r.inst.cursor + 1 } }) ∨
      (r.inst.cursor.toNat = 63 ∧
        r' = { shared := { r.shared with rng := (shuffleOrder cfg r.shared.rng r.inst.order).1 }
               inst := { r.inst with
                 order := (shuffleOrder cfg r.shared.rng r.inst.order).2
                 lines := linesOf r.inst.order[r.inst.cursor.toNat]
                 cursor := 0 } }) := by
  unfold drawOp at h
  cases ho : r.inst.readOrder r.inst.cursor.toNat with
  | none => simp [ho] at h
  | some x =>
    obtain ⟨hc, hx⟩ := Vector.getElem?_eq_some_iff.mp ho
    refine ⟨hc, ?_⟩
    simp only [ho] at h
    split at h
    · refine .inr ⟨by omega, ?_⟩
      rw [hx]
      exact (Option.some.injEq _ _ ▸ h).symm
    · refine .inl ⟨by omega, ?_⟩
      rw [hx]
      exact (Option.some.injEq _ _ ▸ h).symm

/-- A draw is defined wherever the cursor is an address of ORDER (R61). -/
theorem drawOp_isSome {cfg : Config} {r : Reach} (hc : r.inst.cursor.toNat < 64) : (drawOp cfg r).isSome = true := by
  unfold drawOp
  rw [readOrder_of_lt hc]
  dsimp only
  split <;> rfl

/-! ### The divider -/

/-- All that DIVIDE can do (R204). -/
theorem divideOp_cases (r : Reach) :
    (r.inst.p .clkDiv ≤ (r.shared.divcnt.toNat : Int) + 1 ∧
      divideOp r = { shared := { r.shared with divcnt := 0 }, inst := { r.inst with divOut := true } }) ∨
    ((r.shared.divcnt.toNat : Int) + 1 < r.inst.p .clkDiv ∧
      divideOp r = { shared := { r.shared with divcnt := r.shared.divcnt + 1 }, inst := { r.inst with divOut := false } }) := by
  unfold divideOp
  split
  · exact .inl ⟨by assumption, rfl⟩
  · exact .inr ⟨by omega, rfl⟩

theorem divideOp_order (r : Reach) : (divideOp r).inst.order = r.inst.order := by
  rcases divideOp_cases r with ⟨-, h⟩ | ⟨-, h⟩ <;> rw [h]

theorem divideOp_cursor (r : Reach) : (divideOp r).inst.cursor = r.inst.cursor := by
  rcases divideOp_cases r with ⟨-, h⟩ | ⟨-, h⟩ <;> rw [h]

theorem divideOp_lines (r : Reach) : (divideOp r).inst.lines = r.inst.lines := by
  rcases divideOp_cases r with ⟨-, h⟩ | ⟨-, h⟩ <;> rw [h]

theorem divideOp_params (r : Reach) : (divideOp r).inst.params = r.inst.params := by
  rcases divideOp_cases r with ⟨-, h⟩ | ⟨-, h⟩ <;> rw [h]

theorem divideOp_rng (r : Reach) : (divideOp r).shared.rng = r.shared.rng := by
  rcases divideOp_cases r with ⟨-, h⟩ | ⟨-, h⟩ <;> rw [h]

/-! ### The noise bank -/

/-- What the selected filter can do (R190): the generator and the divider are left alone. -/
theorem filterOp_frame (cfg : Config) (typ : Int) (sr : U32) (w : REAL) (h : Shared) :
    (filterOp cfg typ sr w h).1.rng = h.rng ∧ (filterOp cfg typ sr w h).1.divcnt = h.divcnt := by
  unfold filterOp
  split
  · exact ⟨rfl, rfl⟩
  · split
    · exact ⟨rfl, rfl⟩
    · split
      · exact ⟨rfl, rfl⟩
      · split <;> exact ⟨rfl, rfl⟩

theorem noiseOp_rng (cfg : Config) (sr : U32) (r : Reach) : (noiseOp cfg sr r).shared.rng = cfg.rngNext r.shared.rng :=
  (filterOp_frame cfg _ sr _ _).1

theorem noiseOp_divcnt (cfg : Config) (sr : U32) (r : Reach) : (noiseOp cfg sr r).shared.divcnt = r.shared.divcnt :=
  (filterOp_frame cfg _ sr _ _).2

theorem whiteMap_range (cfg : Config) (r : U32) : -1 ≤ whiteMap cfg r ∧ whiteMap cfg r ≤ 1 := by
  unfold whiteMap
  exact ⟨le_max_left _ _, max_le (by norm_num) (min_le_left _ _)⟩

theorem twoPi_pos (cfg : Config) : 0 < twoPi cfg := by
  unfold twoPi
  positivity

/-! ### STEP -/

/-- All that lines 1 to 2b of STEP can do (R215). -/
theorem clockPhase_cases {cfg : Config} {p : InPorts} {r r' : Reach} (h : clockPhase cfg p r = some r') :
    (riseOf .clk (q16Value p.clkIn) r.inst = false ∧ r' = edgeOp .clk (q16Value p.clkIn) r) ∨
    (riseOf .clk (q16Value p.clkIn) r.inst = true ∧
      ∃ d, drawOp cfg (edgeOp .clk (q16Value p.clkIn) r) = some d ∧ r' = divideOp d) := by
  unfold clockPhase at h
  split at h
  · rename_i hr
    obtain ⟨d, hd, rfl⟩ := Option.map_eq_some_iff.mp h
    exact .inr ⟨hr, d, hd, rfl⟩
  · rename_i hr
    refine .inl ⟨by simpa using hr, ?_⟩
    exact (Option.some.injEq _ _ ▸ h).symm

/-- All that STEP can do when it answers a next state (R215). -/
theorem stepCommand_next {cfg : Config} {n : U4} {s t : State} (h : stepCommand cfg n s = .next t) :
    (s.inst? n = none ∧ t = s.notAccepted) ∨
    ∃ g r, s.inst? n = some g ∧ clockPhase cfg s.inp ⟨s.shared, g⟩ = some r ∧
      t = (s.putReach n (samplePhase cfg s.inp r)).accepted := by
  unfold stepCommand at h
  cases hr : s.reach? n with
  | none =>
    simp only [hr, Host.Outcome.next.injEq] at h
    exact .inl ⟨State.reach?_eq_none_iff.mp hr, h.symm⟩
  | some r =>
    obtain ⟨sh, g⟩ := r
    obtain ⟨hg, rfl⟩ := State.reach?_eq_some_iff.mp hr
    cases hf : frameOp cfg s.inp ⟨s.shared, g⟩ with
    | none => simp [hr, hf] at h
    | some r' =>
      simp only [hr, hf, Host.Outcome.next.injEq] at h
      unfold frameOp at hf
      obtain ⟨r1, hc, rfl⟩ := Option.map_eq_some_iff.mp hf
      exact .inr ⟨g, r1, hg, hc, h.symm⟩

/-- STEP of an instance the block has completes where the cursor is an address of ORDER, or where no draw happens. -/
theorem stepCommand_of_inst {cfg : Config} {n : U4} {s : State} {g : GenInst} {r : Reach} (hg : s.inst? n = some g)
    (hc : clockPhase cfg s.inp ⟨s.shared, g⟩ = some r) :
    stepCommand cfg n s = .next (s.putReach n (samplePhase cfg s.inp r)).accepted := by
  unfold stepCommand
  simp [State.reach?_of_inst? hg, frameOp, hc]

theorem triggerPhase_inst (p : InPorts) (r : Reach) :
    (triggerPhase p r).inst = { r.inst with
      trigPrev := isHigh (q16Value p.trigIn)
      iseqPos := if riseOf .trig (q16Value p.trigIn) r.inst then r.inst.iseqPos + 1 else r.inst.iseqPos } := by
  unfold triggerPhase
  split <;> simp_all [iseqAdvOp, edgeOp, GenInst.setPrev]

@[simp] theorem triggerPhase_shared (p : InPorts) (r : Reach) : (triggerPhase p r).shared = r.shared := by
  unfold triggerPhase
  split <;> rfl

/-- What a sample leaves of the record apart from its outputs and the trigger's part (R215, R217). -/
theorem samplePhase_frame (cfg : Config) (p : InPorts) (r : Reach) :
    (samplePhase cfg p r).inst.order = r.inst.order ∧ (samplePhase cfg p r).inst.cursor = r.inst.cursor ∧
    (samplePhase cfg p r).inst.lines = r.inst.lines ∧ (samplePhase cfg p r).inst.clkPrev = r.inst.clkPrev ∧
    (samplePhase cfg p r).inst.divOut = r.inst.divOut ∧ (samplePhase cfg p r).inst.params = r.inst.params ∧
    (samplePhase cfg p r).shared.rng = cfg.rngNext r.shared.rng ∧
    (samplePhase cfg p r).shared.divcnt = r.shared.divcnt := by
  unfold samplePhase
  simp [triggerPhase_inst, noiseOp_rng, noiseOp_divcnt]

/-! ### Fetching -/

/-- A presented word that selects a row runs its instruction (R6, R83; log 5). -/
theorem fetch_run {s : State} {p : InPorts} {rest : List InPorts} {i : Instr} (hh : s.host = p :: rest)
    (hr : p.rst = false) (hv : p.cmdValid = true) (hd : decode p.cmd = .ok i) :
    s.fetch = .run i (s.drive p rest) := by
  simp [State.fetch, hh, hr, hv, hd]

/-- All that a step can do: nothing, the reset procedure, a word not accepted, or one instruction. -/
theorem step_cases (s : State) :
    (s.host = [] ∧ step s = .next s) ∨
    ∃ p rest, s.host = p :: rest ∧
      ((p.rst = true ∧ step s = .next (State.reset.drive p rest)) ∨
       (p.rst = false ∧ p.cmdValid = false ∧ step s = .next (s.drive p rest)) ∨
       (p.rst = false ∧ p.cmdValid = true ∧ (∃ e, decode p.cmd = .error e) ∧
          step s = .next (s.drive p rest).notAccepted) ∨
       (p.rst = false ∧ p.cmdValid = true ∧ ∃ i, decode p.cmd = .ok i ∧ step s = exec i (s.drive p rest))) := by
  unfold step State.fetch
  cases hh : s.host with
  | nil => exact .inl ⟨rfl, rfl⟩
  | cons p rest =>
    refine .inr ⟨p, rest, rfl, ?_⟩
    cases hr : p.rst with
    | true => exact .inl ⟨rfl, by simp [hr]⟩
    | false =>
      cases hv : p.cmdValid with
      | false => exact .inr (.inl ⟨rfl, rfl, by simp [hr, hv]⟩)
      | true =>
        cases hd : decode p.cmd with
        | error e => exact .inr (.inr (.inl ⟨rfl, rfl, ⟨e, rfl⟩, by simp [hr, hv, hd]⟩))
        | ok i => exact .inr (.inr (.inr ⟨rfl, rfl, i, rfl, by simp [hr, hv, hd]⟩))

end Sys2Proof.Machine
end

