-- ==== Sys2Proof/Laws/Exec.lean ====
section
/-! SUPPORT. What `exec` is for each internal operation of one instance, as one run of its shared operation, and for
STEP: the equations that later proofs rewrite with before they cite a lemma of Laws/Ops.lean. -/

namespace Sys2Proof.Machine

theorem exec_step (n : U4) (s : State) : exec (.step n) s = stepCommand Config.chip n s := rfl

theorem exec_shuffle (n : U4) (s : State) :
    exec (.shuffle n) s = runOn n s fun r => some (shuffleOp Config.chip r, .none) := rfl

theorem exec_draw (n : U4) (s : State) :
    exec (.draw n) s = runOn n s fun r => (drawOp Config.chip r).map fun r' => (r', .none) := rfl

theorem exec_hexcv (n : U4) (s : State) :
    exec (.hexcv n) s = runOn n s fun r => some (hexcvOp Config.chip r, .real (hexcvOp Config.chip r).inst.outRaw) := rfl

theorem exec_iseqVal (n : U4) (s : State) :
    exec (.iseqVal n) s = runOn n s fun r => some (iseqValOp Config.chip r, .real (iseqValOp Config.chip r).inst.outIseq) :=
  rfl

theorem exec_iseqAdv (n : U4) (s : State) :
    exec (.iseqAdv n) s = runOn n s fun r => some (iseqAdvOp r, .none) := rfl

theorem exec_noise (n : U4) (s : State) :
    exec (.noise n) s = runOn n s fun r =>
      some (noiseOp Config.chip s.inp.sr r, .real (noiseOp Config.chip s.inp.sr r).inst.outNoise) := rfl

theorem exec_edge (n : U4) (input : EdgeInput) (level : REAL) (s : State) :
    exec (.edge n input level) s = runOn n s fun r => some (edgeOp input level r, .bit (riseOf input level r.inst)) := rfl

theorem exec_divide (n : U4) (s : State) :
    exec (.divide n) s = runOn n s fun r => some (divideOp r, .none) := rfl

end Sys2Proof.Machine
end

