-- ==== Sys2Proof/Laws/PerInstr.lean ====
section
/-! SUPPORT. Lemmas made one per constructor of Instr. The family OperandsChecked says what well-formedness asks of each
operation: that the instance it names exists and that the parameter index it names is at most 11 (spec R81, R86). -/

namespace Sys2Proof.Laws

/-- An operation is well formed on a block of `nInst` generators exactly when every instance it names is one of them and
every parameter index it names is at most 11. -/
def OperandsChecked.Statement (i : Instr) : Prop :=
  ∀ nInst : Nat, i.wellFormed nInst = true ↔
    (∀ n, i.inst? = some n → n.toNat < nInst) ∧ ∀ k, i.idx? = some k → k.toNat ≤ 11

theorem operandsChecked_all (i : Instr) : OperandsChecked.Statement i := by
  intro nInst
  unfold Instr.wellFormed Instr.instOk Instr.idxOk
  cases i.inst? <;> cases i.idx? <;> simp

theorem OperandsChecked.nop : OperandsChecked.Statement (.nop) := operandsChecked_all _
theorem OperandsChecked.step (n : U4) : OperandsChecked.Statement (.step n) := operandsChecked_all _
theorem OperandsChecked.wrparam (n : U4) (idx : U8) (imm : S16) : OperandsChecked.Statement (.wrparam n idx imm) := operandsChecked_all _
theorem OperandsChecked.rdparam (n : U4) (idx : U8) : OperandsChecked.Statement (.rdparam n idx) := operandsChecked_all _
theorem OperandsChecked.rdhex (n : U4) : OperandsChecked.Statement (.rdhex n) := operandsChecked_all _
theorem OperandsChecked.rand : OperandsChecked.Statement (.rand) := operandsChecked_all _
theorem OperandsChecked.shuffle (n : U4) : OperandsChecked.Statement (.shuffle n) := operandsChecked_all _
theorem OperandsChecked.draw (n : U4) : OperandsChecked.Statement (.draw n) := operandsChecked_all _
theorem OperandsChecked.hexcv (n : U4) : OperandsChecked.Statement (.hexcv n) := operandsChecked_all _
theorem OperandsChecked.scale (x : S16) : OperandsChecked.Statement (.scale x) := operandsChecked_all _
theorem OperandsChecked.quant (v : REAL) (x : S16) (r : S16) (t : S16) (m : S16) : OperandsChecked.Statement (.quant v x r t m) := operandsChecked_all _
theorem OperandsChecked.iseqOffLoop (a : U32) (b : S16) (c : S16) (d : S16) : OperandsChecked.Statement (.iseqOffLoop a b c d) := operandsChecked_all _
theorem OperandsChecked.iseqOffPend (a : U32) (b : S16) (c : S16) (d : S16) : OperandsChecked.Statement (.iseqOffPend a b c d) := operandsChecked_all _
theorem OperandsChecked.iseqVal (n : U4) : OperandsChecked.Statement (.iseqVal n) := operandsChecked_all _
theorem OperandsChecked.iseqAdv (n : U4) : OperandsChecked.Statement (.iseqAdv n) := operandsChecked_all _
theorem OperandsChecked.white : OperandsChecked.Statement (.white) := operandsChecked_all _
theorem OperandsChecked.noiseWhite (w : REAL) : OperandsChecked.Statement (.noiseWhite w) := operandsChecked_all _
theorem OperandsChecked.noisePink (w : REAL) : OperandsChecked.Statement (.noisePink w) := operandsChecked_all _
theorem OperandsChecked.noiseBrown (w : REAL) : OperandsChecked.Statement (.noiseBrown w) := operandsChecked_all _
theorem OperandsChecked.noiseBlue (w : REAL) (sr : U32) : OperandsChecked.Statement (.noiseBlue w sr) := operandsChecked_all _
theorem OperandsChecked.noise (n : U4) : OperandsChecked.Statement (.noise n) := operandsChecked_all _
theorem OperandsChecked.edge (n : U4) (e : EdgeInput) (l : REAL) : OperandsChecked.Statement (.edge n e l) := operandsChecked_all _
theorem OperandsChecked.divide (n : U4) : OperandsChecked.Statement (.divide n) := operandsChecked_all _

end Sys2Proof.Laws
end

