-- ==== Sys2Proof/Laws/Ports.lean ====
section
/-! SUPPORT. What the ports and a run show: the small lemmas of `observe`, `after` and `shows`. -/

namespace Sys2Proof.Machine

@[simp] theorem State.observe_rdData (s : State) : s.observe.rdData = s.rdData := rfl
@[simp] theorem State.observe_cmdErr (s : State) : s.observe.cmdErr = s.cmdErr := rfl

@[simp] theorem State.present_shared (s : State) (p : InPorts) : (s.present p).shared = s.shared := rfl
@[simp] theorem State.present_insts (s : State) (p : InPorts) : (s.present p).insts = s.insts := rfl
@[simp] theorem State.present_rdData (s : State) (p : InPorts) : (s.present p).rdData = s.rdData := rfl
@[simp] theorem State.present_cmdErr (s : State) (p : InPorts) : (s.present p).cmdErr = s.cmdErr := rfl
@[simp] theorem State.present_inp (s : State) (p : InPorts) : (s.present p).inp = s.inp := rfl
@[simp] theorem State.present_host (s : State) (p : InPorts) : (s.present p).host = [p] := rfl
@[simp] theorem State.present_ret (s : State) (p : InPorts) : (s.present p).ret = s.ret := rfl

theorem State.streamsOf_eq_some {cfg : Config} {s : State} {n : U4} {g : GenInst} (h : s.inst? n = some g) :
    s.streamsOf cfg n = some (g.streams cfg) := by
  rw [State.streamsOf, h, Option.map_some]

theorem State.streamsOf_eq_none {cfg : Config} {s : State} {n : U4} (h : s.inst? n = none) : s.streamsOf cfg n = none := by
  rw [State.streamsOf, h, Option.map_none]

theorem InPorts.stepped_of_step {p : InPorts} {n : U4} (hc : p.isCommand = true) (hd : decode p.cmd = .ok (.step n)) :
    p.stepped = some n := by
  simp [InPorts.stepped, hc, hd]

theorem InPorts.stepped_eq_some {p : InPorts} {n : U4} (h : p.stepped = some n) :
    p.isCommand = true ∧ decode p.cmd = .ok (.step n) := by
  unfold InPorts.stepped at h
  split at h
  · rename_i hc
    split at h
    · rename_i m hd
      cases h
      exact ⟨hc, hd⟩
    · cases h
  · cases h

/-- One presentation of a run whose step answers a next state. -/
theorem State.after_cons {s t : State} {p : InPorts} (h : step (s.present p) = .next t) (ps : List InPorts) :
    s.after (p :: ps) = t.after ps := by
  simp [State.after, h]

theorem State.shows_cons {s t : State} {p : InPorts} (h : step (s.present p) = .next t) (ps : List InPorts) :
    s.shows (p :: ps) = if p.isCommand then t.observe :: t.shows ps else t.shows ps := by
  simp [State.shows, h]

/-- The `rst` that begins a run leaves the same state whatever the state was (R250, R256). -/
theorem step_present_reset (s : State) : step (s.present presentReset) = .next (State.reset.drive presentReset []) := rfl

end Sys2Proof.Machine
end

