-- ==== Sys2Proof/Machine/Script.lean ====
section
/-! DEFINITION. What a host presents for the pseudo-commands of spec/30_encoding.md R98 and for one audio block of
spec/20_memory.md R71, and the index formula of the host's sample buffer (R70). No rule of the block depends on
this file. -/

namespace Sys2Proof.Machine

/-- The level 2 in Q16.16: the high level of R98. -/
def levelTwo : S32 := 131072

/-- One `STEP n` with the given port values (R97). -/
def stepAt (n : U4) (clk trig : S32) (sr : U32) : InPorts := presentWord (commandWord 0x1 n 0 0) clk trig sr

/-- `CLKPULSE n`: one low sample, one high sample (R98). -/
def clkPulse (n : U4) (sr : U32) : List InPorts := [stepAt n 0 0 sr, stepAt n levelTwo 0 sr]

/-- `TRIGPULSE n` (R98). -/
def trigPulse (n : U4) (sr : U32) : List InPorts := [stepAt n 0 0 sr, stepAt n 0 levelTwo sr]

/-- `BLOCK n, k`: k copies of one STEP (R71, R98). -/
def audioBlock (n : U4) (k : Nat) (clk trig : S32) (sr : U32) : List InPorts := List.replicate k (stepAt n clk trig sr)

/-- `SETP n, name = v, ...`: one WRPARAM per pair, left to right (R98). -/
def setParams (n : U4) (ps : List (Param × S16)) : List InPorts :=
  ps.map fun kv => presentWord (commandWord 0x2 n (BitVec.ofNat 8 (paramIndex kv.1).val) kv.2) 0 0 48000

/-- The buffer element of sample `k` of bus `b` >= 1, with `frames` samples in a bus: (b - 1)·frames + k (R70). -/
def busIndex (b frames k : Nat) : Nat := (b - 1) * frames + k

end Sys2Proof.Machine
end

