-- ==== Sys2Proof/Tests/Slice0.lean ====
section
/-! SUPPORT. Tests and witnesses. Expected values are the spec's own (spec/95_test_vectors.md, vector and program numbers
in the comments), computed there under the fixture REFCFG of spec/00_scope.md R9, which is `refConfig` here and no
property of the hardware. The last section holds one witness for each statement that has hypotheses. -/

namespace Sys2Proof.Tests

open Sys2Proof Sys2Proof.Machine Sys2Proof.Spec

set_option Elab.async false

/-! ### The fixture REFCFG (R9) -/

/-- A standard scale by the degrees before its last 12. -/
def stdRaw (l : List Nat) : RawStdScale :=
  ⟨Fin.ofNat 4 (l.length - 4), Vector.ofFn fun i => Fin.ofNat 13 (l.getD i.val 0)⟩

/-- An exotic row by its populated offsets. -/
def exoticRaw (l : List REAL) : RawExotic := ⟨Fin.ofNat 21 l.length, Vector.ofFn fun i => l.getD i.val 0⟩

/-- The entries of ISEQ_TABLE[0] that the tests read, from entry 0 on (spec/95_test_vectors.md section 2). -/
def piDigits : List Nat := [3, 1, 4, 1, 5, 9]

/-- REFCFG, with the tables as far as the tests read them. -/
def refConfig : Config where
  moreInst := 0
  seed := 1
  rngNext s := 1664525 * s + 1013904223
  rngOut s := s
  hexCv h := (h.toNat : REAL) / 12
  stdScale s :=
    match s.val with
    | 0 => stdRaw [0, 2, 4, 5, 7, 9, 11]
    | 1 => stdRaw [0, 2, 3, 5, 7, 8, 10]
    | 2 => stdRaw [0, 2, 4, 7, 9]
    | 3 => stdRaw [0, 3, 5, 7, 10]
    | 4 => stdRaw [0, 2, 4, 6, 8, 10]
    | 5 => stdRaw [0, 3, 6, 9]
    | _ => stdRaw [1, 3, 5, 9]
  exotic s := if s.val = 0 then exoticRaw [0, 3 / 2, 7 / 2, 5, 7, 17 / 2, 21 / 2]
    else exoticRaw [1 / 2, 5 / 2, 9 / 2, 13 / 2, 17 / 2, 21 / 2]
  iseqTable t a := if t.val = 0 then BitVec.ofNat 32 (piDigits.getD a.val 0) else BitVec.ofInt 32 ((a.val : Int) - 64)
  whiteRaw r := (r.toNat : REAL) / 2147483648 - 1
  pinkLeak k := #v[99765 / 100000, 963 / 1000, 57 / 100][k]
  pinkGain k := #v[990460 / 10000000, 2965164 / 10000000, 10526913 / 10000000][k]
  pinkW _ := 1
  pinkDirect := 1848 / 10000
  brownLeak := 255 / 256
  brownGain := 1 / 32
  brownOut := 1
  twoPiNum := 6283185306
  twoPiDen := 999999999
  outFmt := q16Out

/-- The singletons from which the noise vectors start: RNG = 1, no noise state. -/
def freshShared : Shared := resetShared 1

/-- Parameters by index: SCALE, ROOT, TRANSPOSE, MASK_ROT, then the six of the player, NOISE_TYPE, CLK_DIV. -/
def paramsOf (l : List Int) : Vector S16 12 := Vector.ofFn fun k => BitVec.ofInt 16 (l.getD k.val 0)

/-- A record in the middle of an epoch on the identity array, its lines showing the entry before the cursor. -/
def demoInst (cursor : U7) (params : List Int) : GenInst :=
  { (resetInst refConfig 1).2 with
    order := identityOrder, cursor := cursor, lines := linesOf (BitVec.ofNat 6 (cursor.toNat - 1))
    params := paramsOf params }

/-- The default parameters (R253). -/
def defaults : List Int := [0, 0, 0, 0, 0, 0, 0, 128, 0, 1, 0, 1]

/-- The same with another CLK_DIV and NOISE_TYPE. -/
def withDivNoise (d n : Int) : List Int := [0, 0, 0, 0, 0, 0, 0, 128, 0, 1, n, d]

/-- A state with these records and nothing presented. -/
def demoState (l : List GenInst) : State :=
  { shared := freshShared, insts := l, rdData := 0, cmdErr := false, inp := quietPorts, host := [], ret := .none }

/-- Two generators: one at the start of an epoch, one at its last draw. -/
def demo : State := demoState [demoInst 0 defaults, demoInst 63 (withDivNoise 4 1)]

/-- A high level on both inputs. -/
def highPorts : InPorts := { quietPorts with clkIn := 131072, trigIn := 131072 }

/-- `demo` with both levels high: a rising edge on each input. -/
def demoHigh : State := { demo with inp := highPorts }

/-- A block with all its generators (N_INST is open), each at the given cursor. -/
def full (cursor : U7) (host : List InPorts) : State :=
  { demoState (List.replicate Config.chip.nInst (demoInst cursor defaults)) with host := host }

/-- An outcome that goes on. -/
def isNext : Host.Outcome State Fault Refusal → Bool
  | .next _ => true
  | .fault _ => false
  | .refused _ => false

theorem next_of_isNext {o : Host.Outcome State Fault Refusal} (h : isNext o = true) : ∃ t, o = .next t := by
  cases o with
  | next t => exact ⟨t, rfl⟩
  | fault e => exact Bool.noConfusion h
  | refused e => exact Bool.noConfusion h

/-- CMD_ERR and RD_DATA after an outcome. -/
def shellOf : Host.Outcome State Fault Refusal → Option (Bool × U16)
  | .next s => some (s.cmdErr, s.rdData)
  | .fault _ => none
  | .refused _ => none

/-- The parameters of the first record after an outcome. -/
def firstParams : Host.Outcome State Fault Refusal → Option (List S16)
  | .next s => s.insts.head?.map fun g => g.params.toList
  | .fault _ => none
  | .refused _ => none

/-- The state REFCFG's reset leaves, as what an operation of the first generator reaches. -/
def resetReach : Reach := ⟨resetShared (resetInst refConfig 1).1, (resetInst refConfig 1).2⟩

/-! ### Well-formedness: one ill-formed term for each check -/

theorem test_wellFormed_refuses_absent_generator : Instr.wellFormed 2 (.step 2) = false := by decide
theorem test_wellFormed_takes_last_generator : Instr.wellFormed 2 (.step 1) = true := by decide
theorem test_wellFormed_refuses_index_12 : Instr.wellFormed 2 (.rdparam 1 12) = false := by decide
theorem test_wellFormed_takes_index_11 : Instr.wellFormed 2 (.wrparam 1 11 0xFFFF) = true := by decide

/-! ### Decoding: the words of spec/95_test_vectors.md section 8 (V90 to V104) -/

theorem test_decode_nop : decode 0x00000000 = .ok .nop := by decide
theorem test_decode_step : decode 0x11000000 = .ok (.step 1) := by decide
theorem test_decode_wrparam : decode 0x2002FFF4 = .ok (.wrparam 0 2 0xFFF4) := by decide
theorem test_decode_rdparam : decode 0x30070000 = .ok (.rdparam 0 7) := by decide
theorem test_decode_rdhex : decode 0x40000000 = .ok (.rdhex 0) := by decide
theorem test_decode_refuses_step_imm : decode 0x10000001 = .error .unusedField := by decide
theorem test_decode_refuses_index_27 : decode 0x201B0000 = .error .indexHigh := by decide
theorem test_decode_keeps_index_12 : decode 0x200C0000 = .ok (.wrparam 0 12 0) := by decide
theorem test_decode_refuses_opcode_5 : decode 0x50000000 = .error (.reservedOpcode 5) := by decide
theorem test_decode_refuses_opcode_15 : decode 0xFFFFFFFF = .error (.reservedOpcode 15) := by decide
theorem test_decode_refuses_nop_imm : decode 0x00000001 = .error .unusedField := by decide
theorem test_decode_refuses_rdparam_imm : decode 0x30070001 = .error .unusedField := by decide
theorem test_decode_refuses_rdhex_idx : decode 0x40010000 = .error .unusedField := by decide
theorem test_decodeTableWord_step : decodeTableWord 32 0x10000000 = some (.step 0) := by decide

/-- The internal operations have no word (R80, R95): one of each family. -/
theorem test_encode_internal_none :
    encode .rand = none ∧ encode (.shuffle 0) = none ∧ encode (.draw 0) = none ∧ encode (.hexcv 0) = none ∧
    encode (.scale 0) = none ∧ encode (.quant 0 0 0 0 0) = none ∧ encode (.iseqOffLoop 0 0 0 0) = none ∧
    encode (.iseqOffPend 0 0 0 0) = none ∧ encode (.iseqVal 0) = none ∧ encode (.iseqAdv 0) = none ∧
    encode .white = none ∧ encode (.noiseWhite 0) = none ∧ encode (.noisePink 0) = none ∧
    encode (.noiseBrown 0) = none ∧ encode (.noiseBlue 0 0) = none ∧ encode (.noise 0) = none ∧
    encode (.edge 0 .clk 0) = none ∧ encode (.divide 0) = none := by decide

/-! ### Host commands (V90 to V104) -/

/-- V90. -/
theorem test_nop_clears_error : shellOf (exec .nop { demo with cmdErr := true }) = some (false, 0) := by decide +kernel
/-- V94: CLK_DIV of generator 0 becomes 4. -/
theorem test_wrparam_stores : firstParams (exec (.wrparam 0 11 4) demo) =
    some [0, 0, 0, 0, 0, 0, 0, 128, 0, 1, 0, 4] := by decide +kernel
/-- V97: parameter index 12 is not accepted. -/
theorem test_wrparam_refuses_12 : shellOf (exec (.wrparam 0 12 0) demo) = some (true, 0) := by decide +kernel
/-- V99: ISEQ_LEN after reset reads 0x0080. -/
theorem test_rdparam_reads : shellOf (exec (.rdparam 0 7) demo) = some (false, 0x0080) := by decide +kernel
/-- V95 then V100: TRANSPOSE = -12 reads 0xFFF4. -/
theorem test_rdparam_negative :
    shellOf (exec (.rdparam 0 2) (demoState [demoInst 0 [0, 0, -12]])) = some (false, 0xFFF4) := by decide +kernel
/-- PROG1's end: the lines 1 1 0 1 1 1, bottom first, read 0x003B. -/
theorem test_rdhex_reads : shellOf (exec (.rdhex 0)
    (demoState [{ demoInst 0 defaults with lines := #v[true, true, false, true, true, true] }])) = some (false, 0x003B) := by
  decide +kernel
/-- V92: STEP of an absent generator is not accepted. -/
theorem test_step_refuses_absent : shellOf (exec (.step 2) demo) = some (true, 0) := by decide +kernel
/-- V91 on the hardware right after reset, through the host's presentation. -/
theorem test_step_runs_from_reset : shellOf (step (State.reset.withFetchWord 32 0x10000000)) = some (false, 0) := by
  decide +kernel
/-- PROG1, STEP 1 and 2: cursor 1, OUT_RAW 1/12, OUT_QUANT 0, OUT_ISEQ 1/6, DIVCNT 1, DIV_OUT 0, RNG 0xCB55CEAC. -/
theorem test_step_prog1_second :
    (((frameOp refConfig quietPorts
        { resetReach with inst := { resetReach.inst with params := paramsOf [2, 0, 0, 0, 0, 0, 0, 128, 0, 1, 0, 4] } }).bind
      (frameOp refConfig { highPorts with trigIn := 0 })).map fun r =>
        ([r.inst.outRaw, r.inst.outQuant, r.inst.outIseq], r.inst.cursor, r.shared.divcnt, r.inst.divOut, r.shared.rng)) =
      some ([1 / 12, 0, 1 / 6], 1, 1, false, 0xCB55CEAC) := by decide +kernel

/-! ### The scheduler (V1 to V4) -/

/-- V2, first call. -/
theorem test_rand_first : rand refConfig 1 = (0x3C88596C, 1015568748) := by decide +kernel
/-- V1: RNG after the construction shuffle, and the first eight entries. -/
theorem test_shuffle_construction :
    (shuffleOrder refConfig 1 identityOrder).1 = 0x25B63BEA ∧
    (shuffleOrder refConfig 1 identityOrder).2.toList.take 8 = [1, 42, 58, 59, 46, 22, 63, 14] := by decide +kernel
/-- V3, draw 2: the entry 42 on the lines, bottom first, and the cursor. -/
theorem test_draw_second :
    ((drawOp refConfig { resetReach with inst := { resetReach.inst with cursor := 1 } }).map fun r =>
      (r.inst.lines, r.inst.cursor)) = some (#v[false, true, false, true, false, true], 2) := by decide +kernel
/-- V4, draw 64: the lines show 44, ORDER is shuffled, the cursor returns to 0. -/
theorem test_draw_ends_epoch :
    ((drawOp refConfig { resetReach with inst := { resetReach.inst with cursor := 63 } }).map fun r =>
      (r.inst.hexval, r.inst.cursor, r.shared.rng, r.inst.order.toList.take 6)) =
      some (44, 0, 0x31926B37, [1, 58, 35, 5, 9, 26]) := by decide +kernel
/-- V3, draw 3: HEX_CV(58) = 29/6. -/
theorem test_hexcv_58 : (hexcvOp refConfig { resetReach with inst := { resetReach.inst with lines := linesOf 58 } }).inst.outRaw
    = 29 / 6 := by decide +kernel

/-! ### The quantizer (R9, V11, V19, V28) -/

theorem test_scale_standard : scaleOf refConfig 2 = [0, 2, 4, 7, 9, 12] ∧ scaleOf refConfig 133 = [] := by decide +kernel
theorem test_scale_exotic : (scaleOf refConfig 17).take 7 = [1 / 2, 5 / 2, 9 / 2, 13 / 2, 17 / 2, 21 / 2, 0] ∧
    (scaleOf refConfig 17).length = 20 := by decide +kernel
theorem test_quant_first_of_tie : quantOf refConfig (1 / 12) 0 0 0 0 = 0 := by decide +kernel
theorem test_quant_negative_target : quantOf refConfig (-1 / 12) 0 0 0 0 = -1 / 12 := by decide +kernel

/-! ### The integer-sequence player (V31, V37, V40, V42, V54, V60) -/

theorem test_loop_stride_first : (List.range 5).map (fun p => offLoop p 10 4 3) = [10, 13, 12, 11, 10] := by decide
theorem test_loop_negative_stride : (List.range 6).map (fun p => offLoop p 20 5 (-1)) = [20, 19, 18, 17, 16, 20] := by decide
theorem test_pend_stride_after_fold : (List.range 5).map (fun p => offPend p 8 3 5) = [8, 13, 18, 13, 8] := by decide
theorem test_pend_length_one : offPend 2 7 1 1 = 7 := by decide
/-- V54: digit 9, modulo 5, class 4. -/
theorem test_iseqVal_modulo : (iseqValOp refConfig ⟨freshShared,
    { demoInst 0 [0, 0, 0, 0, 0, 5, 0, 128, 0, 1, 0, 1] with iseqPos := 5 }⟩).inst.outIseq = 1 / 3 := by decide +kernel
/-- V60: raw -5, modulo 3, truncated remainder -2, class 10, tie 9/11: 9. -/
theorem test_iseqVal_negative : (iseqValOp refConfig ⟨freshShared,
    { demoInst 0 [0, 0, 0, 0, 2, 3, 0, 128, 0, 1, 0, 1] with iseqPos := 59 }⟩).inst.outIseq = 3 / 4 := by decide +kernel
/-- R168: the position wraps. -/
theorem test_iseqAdv_wraps : (iseqAdvOp ⟨freshShared, { demoInst 0 defaults with iseqPos := 0xFFFFFFFF }⟩).inst.iseqPos = 0 := by
  decide +kernel

/-! ### The noise bank (V70 to V75) -/

theorem test_white_first : whiteOp refConfig freshShared =
    ({ freshShared with rng := 0x3C88596C }, -282978725 / 536870912) := by decide +kernel
theorem test_noiseWhite_passes : noiseWhiteOp (-282978725 / 536870912) freshShared = (freshShared, -282978725 / 536870912) := by
  decide +kernel
theorem test_noisePink_first : noisePinkOp refConfig (-282978725 / 536870912) freshShared =
    ({ freshShared with
        pink := #v[-560558215927 / 10737418240000, -8390783281359 / 53687091200000, -119155696757037 / 214748364800000] },
      -184847781553013 / 214748364800000) := by decide +kernel
theorem test_noiseBrown_second :
    noiseBrownOp refConfig (-561478181 / 2147483648) { freshShared with brown := -282978725 / 17179869184 } =
    ({ freshShared with brown := -108094178459 / 4398046511104 }, -108094178459 / 4398046511104) := by decide +kernel
theorem test_noiseBlue_first : noiseBlueOp refConfig (-282978725 / 536870912) 48000 freshShared =
    ({ freshShared with bluePrev := -282978725 / 536870912 }, -8290392333984375 / 15934527416139776) := by decide +kernel
/-- V75: outside 0..3 the output is 0 and only RNG moves. -/
theorem test_noise_out_of_range :
    (noiseOp refConfig 48000 ⟨freshShared, demoInst 0 (withDivNoise 1 7)⟩).inst.outNoise = 0 ∧
    (noiseOp refConfig 48000 ⟨freshShared, demoInst 0 (withDivNoise 1 7)⟩).shared =
      { freshShared with rng := 0x3C88596C } := by decide +kernel

/-! ### The clock/edge engine (V80 to V83) -/

/-- V80: the level 1 is low, 10001/10000 is high. -/
theorem test_edge_threshold : riseOf .clk 1 (demoInst 0 defaults) = false ∧
    riseOf .trig (10001 / 10000) (demoInst 0 defaults) = true := by decide +kernel
/-- EDGE writes the latch of its own input only (R200). -/
theorem test_edge_latch : (edgeOp .trig 5 ⟨freshShared, demoInst 0 defaults⟩).inst.trigPrev = true ∧
    (edgeOp .trig 5 ⟨freshShared, demoInst 0 defaults⟩).inst.clkPrev = false := by decide +kernel
/-- V83, fifth edge: 5 >= 2 fires. -/
theorem test_divide_above_factor :
    (divideOp ⟨{ freshShared with divcnt := 4 }, demoInst 0 (withDivNoise 2 0)⟩).inst.divOut = true ∧
    (divideOp ⟨{ freshShared with divcnt := 4 }, demoInst 0 (withDivNoise 2 0)⟩).shared.divcnt = 0 := by decide +kernel
/-- V82, CLK_DIV = -7: every edge fires. -/
theorem test_divide_negative_factor :
    (divideOp ⟨freshShared, demoInst 0 (withDivNoise (-7) 0)⟩).inst.divOut = true := by decide +kernel
/-- V82, CLK_DIV = 3, first edge. -/
theorem test_divide_counts :
    (divideOp ⟨freshShared, demoInst 0 (withDivNoise 3 0)⟩).inst.divOut = false ∧
    (divideOp ⟨freshShared, demoInst 0 (withDivNoise 3 0)⟩).shared.divcnt = 1 := by decide +kernel

/-! ### The kernel's own arithmetic on reals, rounding and ports (R14, R50) -/

theorem test_roundHaz_ties : roundHaz (3 / 2) = 2 ∧ roundHaz (-3 / 2) = -2 ∧ roundHaz (5 / 2) = 3 := by decide +kernel
theorem test_q16Out_ties_to_even : q16Out (3 / 131072) = 2 / 65536 ∧ q16Out (1 / 131072) = 0 ∧ q16Out 40000 = 2147483647 / 65536 := by
  decide +kernel
/-- R271: after a refused command that names an absent generator a run still shows RD_DATA and CMD_ERR = 1 (V92), and
after an accepted STEP the streams too. -/
theorem test_shows_refused_command :
    ((demo.shows [presentWord 0x40000000 0 0 48000, presentWord 0x12000000 0 0 48000]).map fun o =>
      (o.cmdErr, o.streams.isSome)) = [(false, false), (true, false)] ∧
    ((demo.shows [quietPorts, presentWord 0x11000000 0 0 48000]).map fun o => (o.cmdErr, o.streams.isSome)) =
      [(false, true)] := by decide +kernel
/-- R98: a clock pulse is one low and one high sample. -/
theorem test_clkPulse : (clkPulse 0 48000).map (fun p => (p.cmd, q16Value p.clkIn, q16Value p.trigIn)) =
    [(0x10000000, 0, 0), (0x10000000, 2, 0)] := by decide +kernel

/-! ### One witness for each statement that has hypotheses -/

/-- The invariant holds in the full block (cursor below 64). -/
theorem full_inv (c : U7) (hc : c.toNat < 64) (host : List InPorts) : (full c host).Inv :=
  { inst_count := List.length_replicate
    inst_inv := fun g hg => by
      obtain rfl := List.eq_of_mem_replicate hg
      exact ⟨List.Perm.refl _, hc⟩
    divcnt_le := by
      change (0 : U16).toNat ≤ 32766
      decide }

/-- The lines of the full block show the last draw. -/
theorem full_shows (c : U7) (h : (demoInst c defaults).showsLastDraw) (host : List InPorts) : (full c host).ShowsDraws :=
  fun g hg => by
    obtain rfl := List.eq_of_mem_replicate hg
    exact h

/-- STEP 0 with a rising clock edge. -/
def clockEdge : InPorts := presentWord 0x10000000 131072 0 48000

theorem witness_DecodeEncodeRoundTrip : Instr.wellFormed 16 (.wrparam 15 11 0xFFFF) = true ∧
    (Instr.wrparam 15 11 0xFFFF).mnemonic ∈ ["NOP", "STEP", "WRPARAM", "RDPARAM", "RDHEX"] ∧
    encode (.wrparam 15 11 0xFFFF) = some 0x2F0BFFFF := by decide
theorem witness_DecodedWordReencodes : decode 0x3F0F0000 = .ok (.rdparam 15 15) := by decide
theorem witness_DecodeFollowsOpcodeMap : (⟨"STEP", 0x10000000, 0xF0FFFFFF⟩ : OpcodeRow) ∈ opcodeRows ∧
    5 ≤ (0x50000000 : U32).toNat / 2 ^ 28 := by decide
theorem witness_StepRunsDecodedInstruction : ({ demo with host := [clockEdge] } : State).host = clockEdge :: [] ∧
    clockEdge.rst = false ∧ clockEdge.cmdValid = true ∧ decode clockEdge.cmd = .ok (.step 0) := by decide +kernel
/-- Both clauses, at the index 12 and at the index 11, and at the first absent generator. -/
theorem witness_UnacceptedWordSetsOnlyCmdErr :
    notAcceptedWord demo.insts.length 0x200C0000 ∧ notAcceptedWord demo.insts.length 0x12000000 ∧
    notAcceptedWord demo.insts.length 0x50000000 ∧ notAcceptedWord demo.insts.length 0x00000001 ∧
    ¬ notAcceptedWord demo.insts.length 0x210B0004 ∧ ¬ notAcceptedWord demo.insts.length 0x40000000 ∧
    (∀ g ∈ demo.insts, g.cursor.toNat < 64) ∧
    (presentWord 0x200C0000 0 0 48000).rst = false ∧ (presentWord 0x210B0004 0 0 48000).cmdValid = true := by
  unfold notAcceptedWord
  dsimp only
  refine ⟨?_, ?_, ?_, ?_, ?_, ?_, ?_, ?_, ?_⟩ <;> decide +kernel
theorem witness_ResetPortRunsResetProcedure : ({ demo with host := [presentReset] } : State).host = presentReset :: [] ∧
    presentReset.rst = true := by decide +kernel
theorem witness_NothingPresentedChangesNothing : demo.host = [] ∧
    ({ demo with host := [highPorts] } : State).host = highPorts :: [] ∧ highPorts.rst = false ∧ highPorts.cmdValid = false := by
  decide +kernel
/-- A step that ends an epoch. -/
theorem witness_StepKeepsInvariant : (full 63 [clockEdge]).Inv ∧ ∃ t, step (full 63 [clockEdge]) = .next t :=
  ⟨full_inv 63 (by decide) _, next_of_isNext (by decide +kernel)⟩
theorem witness_EveryOperationKeepsInvariant : (full 63 []).Inv ∧ ∃ t, exec (.draw 0) (full 63 []) = .next t :=
  ⟨full_inv 63 (by decide) _, next_of_isNext (by decide +kernel)⟩
/-- In the middle of an epoch: the lines show entry 4 of the identity array. -/
theorem witness_StepKeepsLinesOfLastDraw : (full 5 [clockEdge]).Inv ∧ (full 5 [clockEdge]).ShowsDraws ∧
    ∃ t, step (full 5 [clockEdge]) = .next t :=
  ⟨full_inv 5 (by decide) _, full_shows 5 (fun _ => by decide +kernel) _, next_of_isNext (by decide +kernel)⟩
theorem witness_NoStepFaults : (full 0 [clockEdge]).Inv ∧
    (∀ p ∈ [clockEdge, presentWord 0x50000000 0 0 48000], p.isCommand = true) ∧
    0 < [clockEdge, presentWord 0x50000000 0 0 48000].length :=
  ⟨full_inv 0 (by decide) _, by decide, by decide⟩
theorem witness_EveryWellFormedOperationCompletes : (full 0 []).Inv ∧
    Instr.wellFormed (full 0 []).insts.length (.divide 0) = true :=
  ⟨full_inv 0 (by decide) _, by decide +kernel⟩
theorem witness_ResetStateOfEveryInstance : (State.reset.insts[0]?).isSome = true := by decide +kernel
/-- The index 11 of a generator the block has; the first absent generator; the index 12. -/
theorem witness_WrparamStoresOneRegister : demo.insts[(1 : U4).toNat]? = some (demoInst 63 (withDivNoise 4 1)) ∧
    (11 : U8).toNat < 12 ∧ demo.insts.length ≤ (2 : U4).toNat ∧ 12 ≤ (12 : U8).toNat := by decide +kernel
theorem witness_RdparamReadsOneRegister : demo.insts[(0 : U4).toNat]? = some (demoInst 0 defaults) ∧
    (11 : U8).toNat < 12 ∧ demo.insts.length ≤ (2 : U4).toNat ∧ 12 ≤ (12 : U8).toNat := by decide +kernel
theorem witness_WrittenParameterIsReadBack : (1 : U4).toNat < demo.insts.length ∧ (0 : U4).toNat < demo.insts.length ∧
    (11 : U8).toNat < 12 ∧ (0 : U8).toNat < 12 := by decide
theorem witness_RdhexReadsLines : demo.insts[(1 : U4).toNat]? = some (demoInst 63 (withDivNoise 4 1)) ∧
    demo.insts.length ≤ (2 : U4).toNat := by decide +kernel
theorem witness_HostCommandsKeepGeneratorState : (Instr.wrparam 1 11 7).mnemonic ∈ ["NOP", "WRPARAM", "RDPARAM", "RDHEX"] ∧
    (∃ t, exec (.wrparam 1 11 7) demo = .next t) ∧ demo.insts[0]? = some (demoInst 0 defaults) :=
  ⟨by decide, next_of_isNext (by decide +kernel), by decide +kernel⟩
theorem witness_ParametersWrittenByWrparamOnly : (Instr.step 1).mnemonic ≠ "WRPARAM" ∧
    (∃ t, exec (.step 1) demoHigh = .next t) ∧ demoHigh.insts[0]? = some (demoInst 0 defaults) :=
  ⟨by decide, next_of_isNext (by decide +kernel), by decide +kernel⟩
theorem witness_ShuffleKeepsEntries : demo.insts[(1 : U4).toNat]? = some (demoInst 63 (withDivNoise 4 1)) := by decide +kernel
/-- Both branches: a cursor of 0 and the last draw of an epoch. -/
theorem witness_DrawTakesNextEntry : resetReach.inst.cursor.toNat < 64 ∧
    (⟨freshShared, demoInst 63 defaults⟩ : Reach).inst.cursor.toNat < 64 ∧ (demoInst 63 defaults).cursor.toNat + 1 = 64 := by
  decide +kernel
theorem witness_EpochDrawsEachHexagramOnce : demo.insts[(0 : U4).toNat]? = some (demoInst 0 defaults) ∧
    orderIsPermutation (demoInst 0 defaults).order ∧ (demoInst 0 defaults).cursor = 0 :=
  ⟨by decide +kernel, List.Perm.refl _, by decide⟩
/-- A generator at the start of an epoch, and one at its last draw. -/
theorem witness_ReshuffleEverySixtyFourDraws : demo.insts[(0 : U4).toNat]? = some (demoInst 0 defaults) ∧
    (demoInst 0 defaults).cursor = 0 ∧ (demoInst 0 defaults).cursor.toNat < 64 ∧
    demo.insts[(1 : U4).toNat]? = some (demoInst 63 (withDivNoise 4 1)) ∧
    (demoInst 63 (withDivNoise 4 1)).cursor.toNat = 63 := by decide +kernel
theorem witness_HexcvWritesRawValue : demo.insts[(1 : U4).toNat]? = some (demoInst 63 (withDivNoise 4 1)) := by decide +kernel
theorem witness_GeneratorAdvancesByRandOnly : (∃ t, exec (.divide 1) demo = .next t) ∧
    (Instr.divide 1).mnemonic ∉ ["STEP", "RAND", "SHUFFLE", "DRAW", "WHITE", "NOISE"] :=
  ⟨next_of_isNext (by decide +kernel), by decide⟩
/-- The ends of the three ranges: 0, 15, 16, 132, 133 and -1. -/
theorem witness_ScaleResolvesIndex : (0 : S16).toInt = ((0 : Fin 16).val : Int) ∧ (15 : S16).toInt = ((15 : Fin 16).val : Int) ∧
    (16 : S16).toInt = 16 + ((0 : Fin 117).val : Int) ∧ (132 : S16).toInt = 16 + ((116 : Fin 117).val : Int) ∧
    132 < (133 : S16).toInt ∧ (0xFFFF : S16).toInt < 0 := by decide
/-- The first indices outside 0..132. -/
theorem witness_EmptyScaleGivesWholeOctaves : scaleOf refConfig 133 = [] ∧ scaleOf Config.chip (-1) = [] := by decide +kernel
/-- A tie, rounded away from zero on each side. -/
theorem witness_RoundHazIsNearestAwayFromZero : |(3 / 2 : REAL) - (roundHaz (3 / 2) : REAL)| = 1 / 2 ∧
    |(-3 / 2 : REAL) - (roundHaz (-3 / 2) : REAL)| = 1 / 2 := by decide +kernel
/-- Each clause: a degree below 12, the entry 12 beside an entry 0, the entry 12 without one. -/
theorem witness_QuantIdempotentOnStandardScale : 11 ∈ stdScaleList (refConfig.stdScale 0) ∧ (11 : Int) ≠ 12 ∧
    12 ∈ stdScaleList (refConfig.stdScale 0) ∧ 0 ∈ stdScaleList (refConfig.stdScale 0) ∧
    12 ∈ stdScaleList (refConfig.stdScale 6) ∧ 0 ∉ stdScaleList (refConfig.stdScale 6) := by decide +kernel
/-- Lengths 0 and 1, strides 0 and -1. -/
theorem witness_LoopOffsetWalksTheRange : (0 : S16).toInt ≤ 0 ∧ 0 < (1 : S16).toInt ∧ 0 ≤ (0 : S16).toInt ∧
    (0xFFFF : S16).toInt < 0 := by decide
/-- Lengths 1 and 2. -/
theorem witness_PendulumOffsetFolds : (1 : S16).toInt ≤ 1 ∧ 2 ≤ (2 : S16).toInt := by decide
theorem witness_PendulumSymmetry : (4 : S16).toInt = ((4 : Nat) : Int) ∧ 2 ≤ 4 ∧ (2 : S16).toInt = ((2 : Nat) : Int) := by decide
/-- The selectors 0 and 9 with an address; the selectors -1 and 10. -/
theorem witness_IseqValReadsWrappedTable :
    (demoState [demoInst 0 [0, 0, 0, 0, 9, 0, 0, 128, 0, 1, 0, 1]]).insts[(0 : U4).toNat]? =
      some (demoInst 0 [0, 0, 0, 0, 9, 0, 0, 128, 0, 1, 0, 1]) ∧
    ((9 : Fin 10).val : Int) = (demoInst 0 [0, 0, 0, 0, 9, 0, 0, 128, 0, 1, 0, 1]).p .iseqSel ∧
    ((0 : Fin 128).val : Int) = offLoop 0 0 128 1 % 128 ∧
    (demoInst 0 [0, 0, 0, 0, -1]).p .iseqSel < 0 ∧ 9 < (demoInst 0 [0, 0, 0, 0, 10]).p .iseqSel := by decide +kernel
theorem witness_IseqAdvRaisesPosition : demo.insts[(0 : U4).toNat]? = some (demoInst 0 defaults) := by decide +kernel
/-- The types -1, 0, 1, 2, 3 and 4. -/
theorem witness_NoiseRunsSelectedFilterOnly : demo.insts[(1 : U4).toNat]? = some (demoInst 63 (withDivNoise 4 1)) ∧
    (demoInst 0 (withDivNoise 1 (-1))).p .noiseType < 0 ∧ (demoInst 0 (withDivNoise 1 0)).p .noiseType = 0 ∧
    (demoInst 0 (withDivNoise 1 1)).p .noiseType = 1 ∧ (demoInst 0 (withDivNoise 1 2)).p .noiseType = 2 ∧
    (demoInst 0 (withDivNoise 1 3)).p .noiseType = 3 ∧ 3 < (demoInst 0 (withDivNoise 1 4)).p .noiseType := by decide +kernel
theorem witness_PinkPolesStayBounded : |refConfig.pinkLeak 0| < 1 ∧ |(-1 : REAL)| ≤ 1 ∧
    |freshShared.pink[(0 : Fin 3)]| ≤ |refConfig.pinkGain 0| / (1 - |refConfig.pinkLeak 0|) := by decide +kernel
theorem witness_BluePrevNeverObserved :
    ∃ t, step { demo with host := [presentWord 0x11000000 131072 131072 48000] } = .next t :=
  next_of_isNext (by decide +kernel)
theorem witness_FilterStateChangesOnlyWhenSelected : demoHigh.insts[(0 : U4).toNat]? = some (demoInst 0 defaults) ∧
    (∃ t, exec (.step 0) demoHigh = .next t) ∧ (demoInst 0 defaults).p .noiseType ≠ 1 ∧
    (demoInst 0 defaults).p .noiseType ≠ 2 ∧ (demoInst 0 defaults).p .noiseType ≠ 3 :=
  ⟨by decide +kernel, next_of_isNext (by decide +kernel), by decide +kernel⟩
theorem witness_EdgeDetectsRise : demo.insts[(0 : U4).toNat]? = some (demoInst 0 defaults) := by decide +kernel
/-- The factor 4 at the counts 3 (fires) and 2 (does not). -/
theorem witness_DivideCountsToFactor : demo.insts[(1 : U4).toNat]? = some (demoInst 63 (withDivNoise 4 1)) ∧
    (demoInst 63 (withDivNoise 4 1)).p .clkDiv ≤ ((3 : U16).toNat : Int) + 1 ∧
    ((2 : U16).toNat : Int) + 1 < (demoInst 63 (withDivNoise 4 1)).p .clkDiv := by decide +kernel
theorem witness_DividerFiresEveryDthEdge : demo.insts[(1 : U4).toNat]? = some (demoInst 63 (withDivNoise 4 1)) ∧
    (demoInst 63 (withDivNoise 4 1)).p .clkDiv = ((4 : Nat) : Int) ∧ 1 ≤ 4 ∧ demo.shared.divcnt = 0 ∧
    (demoInst 0 (withDivNoise 1 0)).p .clkDiv = ((1 : Nat) : Int) := by decide +kernel
theorem witness_StepIsItsOperationsInOrder : (1 : U4).toNat < demoHigh.insts.length := by decide
/-- An instance with both edges; its latches are low. -/
theorem witness_StepWritesAllStreams : demoHigh.insts[(1 : U4).toNat]? = some (demoInst 63 (withDivNoise 4 1)) ∧
    (demoInst 63 (withDivNoise 4 1)).cursor.toNat < 64 ∧ risesClk demoHigh (demoInst 63 (withDivNoise 4 1)) ∧
    risesTrig demoHigh (demoInst 63 (withDivNoise 4 1)) ∧ ¬ risesClk demo (demoInst 0 defaults) ∧
    (demoInst 0 defaults).p .noiseType = 0 := by decide +kernel
/-- The level 1.0 itself is no edge. -/
theorem witness_StepWithoutEdgeChangesOutputsOnly :
    demo.insts[(0 : U4).toNat]? = some (demoInst 0 defaults) ∧
    ¬ risesClk { demo with inp := { quietPorts with clkIn := 65536 } } (demoInst 0 defaults) ∧
    ¬ risesTrig { demo with inp := { quietPorts with clkIn := 65536 } } (demoInst 0 defaults) := by decide +kernel
/-- A STEP whose edge ends the epoch, and one whose edge does not. -/
theorem witness_StepMakesOneOrSixtyFourRandCalls : demoHigh.insts[(1 : U4).toNat]? = some (demoInst 63 (withDivNoise 4 1)) ∧
    (demoInst 63 (withDivNoise 4 1)).cursor.toNat = 63 ∧ risesClk demoHigh (demoInst 63 (withDivNoise 4 1)) ∧
    demoHigh.insts[(0 : U4).toNat]? = some (demoInst 0 defaults) ∧ (demoInst 0 defaults).cursor.toNat < 63 := by decide +kernel
theorem witness_DrawOnlyOnClockEdge : demoHigh.insts[(0 : U4).toNat]? = some (demoInst 0 defaults) ∧
    (demoInst 0 defaults).cursor.toNat < 64 ∧ risesClk demoHigh (demoInst 0 defaults) ∧
    (demoInst 0 defaults).cursor.toNat ≠ 63 ∧ ¬ risesClk demo (demoInst 0 defaults) := by decide +kernel
/-- A STEP of a generator the block has, and of one it has not. -/
theorem witness_StepTouchesOneInstance : (∃ t, exec (.step 1) demoHigh = .next t) ∧ 0 ≠ (1 : U4).toNat ∧
    (∃ t, exec (.step 2) demoHigh = .next t) ∧ demoHigh.insts.length ≤ (2 : U4).toNat :=
  ⟨next_of_isNext (by decide +kernel), by decide, next_of_isNext (by decide +kernel), by decide⟩
theorem witness_OtherInstancesHaveNoEffect : 1 ≠ (0 : U4).toNat ∧ ∃ t, exec (.step 0) demoHigh = .next t :=
  ⟨by decide, next_of_isNext (by decide +kernel)⟩
/-- A STEP of the last generator and of the first absent one, a command that steps none, and no command; the ends of the
range, the first values outside it, and ties above an even and above an odd word. -/
theorem witness_OutputPortsCarryRegistersInPortFormat :
    demo.insts[(1 : U4).toNat]? = some (demoInst 63 (withDivNoise 4 1)) ∧ demo.insts.length ≤ (2 : U4).toNat ∧
    (presentWord 0x12000000 0 0 48000).isCommand = true ∧ decode 0x12000000 = .ok (.step 2) ∧
    quietPorts.isCommand = false ∧ (∀ n : U4, decode 0x40000000 ≠ .ok (.step n)) ∧
    (-32768 : REAL) ≤ 2147483647 / 65536 ∧ |q16Out (1 / 131072) - 1 / 131072| = 1 / 131072 ∧
    |q16Out (3 / 131072) - 3 / 131072| = 1 / 131072 := by
  refine ⟨?_, ?_, ?_, ?_, ?_, ?_, ?_, ?_, ?_⟩ <;> decide +kernel

end Sys2Proof.Tests
end

section
/-! The statements of spec/00_scope.md: rounding (R14), and what one step makes of the next presentation (R6, R50). -/

namespace Sys2Proof.Machine

/-! ### round_haz -/

theorem roundHaz_of_nonneg {x : REAL} (hx : 0 ≤ x) : roundHaz x = (x + 1 / 2).floor := by
  simp [roundHaz, hx]

/-- Rounding away from zero is odd, so what holds of it above 0 carries over to below 0. -/
theorem roundHaz_neg (x : REAL) : roundHaz (-x) = -roundHaz x := by
  rcases lt_trichotomy x 0 with hx | rfl | hx
  · simp [roundHaz, hx.le, hx.not_ge]
  · decide +kernel
  · simp [roundHaz, hx.le, hx.not_ge]

/-- The half-open interval of the result: only the upper end is reached, so a tie above 0 goes up. -/
theorem roundHaz_bounds_of_nonneg {x : REAL} (hx : 0 ≤ x) :
    x - 1 / 2 < (roundHaz x : REAL) ∧ (roundHaz x : REAL) ≤ x + 1 / 2 := by
  have hlt := Rat.lt_floor_add_one (x + 1 / 2)
  have hle := Rat.floor_le (x + 1 / 2)
  rw [roundHaz_of_nonneg hx]
  push_cast at hlt
  exact ⟨by linarith, hle⟩

/-- The two clauses of R14 for one value (the tie rule is D12). -/
def NearestAwayFromZero (x : REAL) : Prop :=
  |x - (roundHaz x : REAL)| ≤ 1 / 2 ∧ (|x - (roundHaz x : REAL)| = 1 / 2 → |x| < |(roundHaz x : REAL)|)

theorem nearestAwayFromZero_of_nonneg {x : REAL} (hx : 0 ≤ x) : NearestAwayFromZero x := by
  obtain ⟨hlt, hle⟩ := roundHaz_bounds_of_nonneg hx
  refine ⟨abs_le.mpr ⟨by linarith, by linarith⟩, fun htie => ?_⟩
  have hup : (roundHaz x : REAL) = x + 1 / 2 := by
    rcases eq_or_eq_neg_of_abs_eq htie with h | h <;> linarith
  rw [hup, abs_of_nonneg hx, abs_of_nonneg (by linarith)]
  linarith

theorem nearestAwayFromZero_neg {x : REAL} (h : NearestAwayFromZero x) : NearestAwayFromZero (-x) := by
  have hdist : |-x - ((roundHaz (-x) : Int) : REAL)| = |x - (roundHaz x : REAL)| := by
    rw [roundHaz_neg, Int.cast_neg, ← neg_sub', abs_neg]
  unfold NearestAwayFromZero
  rw [hdist, roundHaz_neg, Int.cast_neg, abs_neg, abs_neg]
  exact h

/-- Settles O34: the bounds above 0, and below 0 by oddness. -/
theorem roundHazIsNearestAwayFromZero : Obligations.RoundHazIsNearestAwayFromZero := by
  intro x
  rcases le_total 0 x with hx | hx
  · exact nearestAwayFromZero_of_nonneg hx
  · have hneg := nearestAwayFromZero_neg (nearestAwayFromZero_of_nonneg (neg_nonneg.mpr hx))
    rwa [neg_neg] at hneg

/-! ### One step, by what `fetch` makes of the presentation -/

theorem step_of_fetch_settled {s s' : State} (h : s.fetch = .settled s') : step s = .next s' := by
  simp [step, h]

theorem step_of_fetch_run {s s' : State} {i : Instr} (h : s.fetch = .run i s') : step s = exec i s' := by
  simp [step, h]

theorem fetch_nothing_presented {s : State} (hh : s.host = []) : s.fetch = .settled s := by
  simp [State.fetch, hh]

theorem fetch_no_command {s : State} {p : InPorts} {rest : List InPorts} (hh : s.host = p :: rest)
    (hr : p.rst = false) (hv : p.cmdValid = false) : s.fetch = .settled (s.drive p rest) := by
  simp [State.fetch, hh, hr, hv]

/-- Settles O5: fetch answers the decoded instruction in the driven state, and the step executes it. -/
theorem stepRunsDecodedInstruction : Obligations.StepRunsDecodedInstruction := by
  intro s p rest i hh hr hv hd
  exact step_of_fetch_run (fetch_run hh hr hv hd)

/-- Settles O8: in both cases fetch settles, in the state itself or in the driven state. -/
theorem nothingPresentedChangesNothing : Obligations.NothingPresentedChangesNothing := by
  intro s
  constructor
  · intro hh
    exact step_of_fetch_settled (fetch_nothing_presented hh)
  · intro p rest hh hr hv
    exact step_of_fetch_settled (fetch_no_command hh hr hv)

end Sys2Proof.Machine
end

section
/-! The reset state (spec/70_reset_and_hazards.md R250 to R254): the shuffle as the Fisher-Yates fold of R122, and what the
construction leaves in each generator's record. -/

namespace Sys2Proof.Machine

open Sys2Proof.Spec

/-! ### The shuffle as a fold -/

theorem exchange_eq_swapped {k j : Nat} (o : Vector U6 64) (hk : k < 64) (hj : j < 64) :
    exchange o k j = swapped o k j := by
  ext1 a ha
  simp only [exchange, swapped, hk, hj, and_self, dite_true, Vector.getElem_swap, Vector.getElem_ofFn,
    Vector.getElem?_eq_getElem, Option.getD_some]

/-- The first RAND call of a sequence shifts the numbering of the calls after it by one (R120). -/
theorem randValue_succ (cfg : Config) (c : Nat) (rng : U32) :
    randValue cfg (c + 1) rng = randValue cfg c (rand cfg rng).1 := by
  rw [randValue, randValue, randState, randState, Function.iterate_succ_apply]

/-- The recursion of the model, from any `k` below 64, as the loop of R122 with its random values written out. -/
theorem shuffleFrom_eq_foldl (cfg : Config) {k : Nat} (hk : k < 64) (rng : U32) (o : Vector U6 64) :
    (shuffleFrom cfg k rng o).2 =
      (List.range k).foldl (fun a c => swapped a (k - c) (randValue cfg c rng % (k + 1 - c))) o := by
  induction k generalizing rng o with
  | zero => rfl
  | succ k ih =>
    have hj : (rand cfg rng).2 % (k + 2) < 64 := (Nat.mod_lt _ (by omega)).trans_le (by omega)
    rw [shuffleFrom, ih (by omega), exchange_eq_swapped o hk hj, List.range_succ_eq_map, List.foldl_cons,
      List.foldl_map]
    simp only [Nat.succ_eq_add_one, Nat.add_sub_add_right, randValue_succ]
    rfl

theorem randState_chip (k : Nat) (rng : U32) : randState Config.chip k rng = advance k rng := rfl

theorem randValue_chip (c : Nat) (rng : U32) :
    randValue Config.chip c rng = (Config.chip.rngOut (advance (c + 1) rng)).toNat := by
  rw [randValue, randState_chip, advance, advance, Function.iterate_succ_apply']
  rfl

/-- SHUFFLE on the hardware's configuration is the shuffle of R122. -/
theorem shuffleOrder_chip (rng : U32) (o : Vector U6 64) :
    shuffleOrder Config.chip rng o = (advance 63 rng, fisherYates rng o) := by
  refine Prod.ext (shuffleOrder_rng _ _ _) ?_
  simp only [shuffleOrder, shuffleFrom_eq_foldl Config.chip (show 63 < 64 by decide), fisherYates, randValue_chip]

/-! ### What reset leaves in each record -/

theorem resetInst_rng (cfg : Config) (rng : U32) : (resetInst cfg rng).1 = cfg.rngNext^[63] rng :=
  shuffleOrder_rng cfg rng identityOrder

theorem resetInsts_rng (cfg : Config) (n : Nat) (rng : U32) :
    (resetInsts cfg n rng).1 = cfg.rngNext^[63 * n] rng := by
  induction n generalizing rng with
  | zero => rfl
  | succ n ih => rw [resetInsts, ih, resetInst_rng, ← Function.iterate_add_apply, Nat.mul_succ]

theorem resetInsts_length (cfg : Config) (n : Nat) (rng : U32) : (resetInsts cfg n rng).2.length = n := by
  induction n generalizing rng with
  | zero => rfl
  | succ n ih => rw [resetInsts, List.length_cons, ih]

/-- Record `k` is constructed from the state of RNG that the `k` shuffles before it leave (R252). -/
theorem resetInsts_getElem? {cfg : Config} {n k : Nat} {rng : U32} {g : GenInst}
    (h : (resetInsts cfg n rng).2[k]? = some g) : g = (resetInst cfg (cfg.rngNext^[63 * k] rng)).2 := by
  induction n generalizing rng k with
  | zero => simp [resetInsts] at h
  | succ n ih =>
    cases k with
    | zero => exact (Option.some.inj h).symm
    | succ k =>
      rw [resetInsts, List.getElem?_cons_succ] at h
      rw [ih h, resetInst_rng, ← Function.iterate_add_apply, Nat.mul_succ]

theorem resetInst_inv (cfg : Config) (rng : U32) : (resetInst cfg rng).2.Inv where
  order_perm := shuffleOrder_perm cfg rng identityOrder
  cursor_lt := by
    change (0 : U7).toNat < 64
    decide

/-- At cursor 0 the epoch has no draw yet, so there is nothing to show. -/
theorem showsLastDraw_of_cursor_zero {g : GenInst} (h : g.cursor = 0) : g.showsLastDraw := by
  intro hpos
  simp [h] at hpos

theorem exists_resetInst_of_mem_reset {g : GenInst} (h : g ∈ State.reset.insts) :
    ∃ rng, g = (resetInst Config.chip rng).2 := by
  obtain ⟨k, hk⟩ := List.getElem?_of_mem h
  exact ⟨_, resetInsts_getElem? hk⟩

theorem reset_inv : State.reset.Inv where
  inst_count := resetInsts_length _ _ _
  inst_inv g hg := by
    obtain ⟨rng, rfl⟩ := exists_resetInst_of_mem_reset hg
    exact resetInst_inv _ rng
  divcnt_le := Nat.zero_le _

theorem reset_showsDraws : State.reset.ShowsDraws := by
  intro g hg
  obtain ⟨rng, rfl⟩ := exists_resetInst_of_mem_reset hg
  exact showsLastDraw_of_cursor_zero rfl

/-- Settles O12: every record is one that the construction leaves, with a shuffled identity and cursor 0. -/
theorem resetMeetsInvariant : Obligations.ResetMeetsInvariant :=
  ⟨reset_inv, reset_showsDraws⟩

/-- Settles O15: the singletons and the shell as `State.resetWith` has them, and record `k` as the construction from RNG after
63 · k advances leaves it, its shuffle written as the loop of R122. -/
theorem resetStateOfEveryInstance : Obligations.ResetStateOfEveryInstance := by
  refine ⟨?_, resetInsts_length _ _ _, rfl, rfl, ?_⟩
  · rw [State.reset, State.resetWith, resetShared, resetInsts_rng]
    rfl
  · intro k g hg
    rw [resetInsts_getElem? hg, resetInst, shuffleOrder_chip]
    rfl

end Sys2Proof.Machine
end

section
/-! What one operation can do to the singletons and the records, said once for all 23 rows of the opcode table. Every
invariant of spec/10_state.md is derived from it. -/

namespace Sys2Proof.Machine

/-- What the operations that reach no record can leave in the singletons: RNG advanced by RAND and WHITE, the filter state
moved by the filter run on its own. `keep` is open to every operation: a refused STEP or WRPARAM takes it too. -/
inductive SharedEffect (h : Shared) : Instr → Shared → Prop where
  | keep (i : Instr) : SharedEffect h i h
  | rand : SharedEffect h .rand { h with rng := (Machine.rand Config.chip h.rng).1 }
  | white : SharedEffect h .white (whiteOp Config.chip h).1
  | noisePink (w : REAL) : SharedEffect h (.noisePink w) (noisePinkOp Config.chip w h).1
  | noiseBrown (w : REAL) : SharedEffect h (.noiseBrown w) (noiseBrownOp Config.chip w h).1
  | noiseBlue (w : REAL) (sr : U32) : SharedEffect h (.noiseBlue w sr) (noiseBlueOp Config.chip w sr h).1

/-- What the operations of one generator leave of the singletons and that generator's record, with the port levels `p`. -/
inductive InstanceEffect (p : InPorts) (r : Reach) : Instr → Reach → Prop where
  | step (n : U4) {c : Reach} (hc : clockPhase Config.chip p r = some c) :
      InstanceEffect p r (.step n) (samplePhase Config.chip p c)
  | wrparam (n : U4) (idx : U8) (imm : S16) {g : GenInst} (hg : r.inst.writeParam idx imm = some g) :
      InstanceEffect p r (.wrparam n idx imm) { r with inst := g }
  | shuffle (n : U4) : InstanceEffect p r (.shuffle n) (shuffleOp Config.chip r)
  | draw (n : U4) {d : Reach} (hd : drawOp Config.chip r = some d) : InstanceEffect p r (.draw n) d
  | hexcv (n : U4) : InstanceEffect p r (.hexcv n) (hexcvOp Config.chip r)
  | iseqVal (n : U4) : InstanceEffect p r (.iseqVal n) (iseqValOp Config.chip r)
  | iseqAdv (n : U4) : InstanceEffect p r (.iseqAdv n) (iseqAdvOp r)
  | noise (n : U4) : InstanceEffect p r (.noise n) (noiseOp Config.chip p.sr r)
  | edge (n : U4) (input : EdgeInput) (level : REAL) : InstanceEffect p r (.edge n input level) (edgeOp input level r)
  | divide (n : U4) : InstanceEffect p r (.divide n) (divideOp r)

/-- `t` has the singletons and one record of `s` changed as `eff` allows, and every other record of `s`. -/
def ChangesOneInstance (s t : State) (eff : Reach → Reach → Prop) : Prop :=
  ∃ (n : U4) (g : GenInst) (r : Reach), s.inst? n = some g ∧ eff ⟨s.shared, g⟩ r ∧
    t.shared = r.shared ∧ t.insts = s.insts.set n.toNat r.inst

section ChangesOneInstance

variable {s t : State} {eff : Reach → Reach → Prop}

theorem ChangesOneInstance.of_runOn {n : U4} {op : Reach → Option (Reach × Ret)} (h : runOn n s op = .next t)
    (heff : ∀ r r' v, op r = some (r', v) → eff r r') : ChangesOneInstance s t eff := by
  obtain ⟨g, r', v, hg, hop, rfl⟩ := runOn_next h
  exact ⟨n, g, r', hg, heff _ _ _ hop, rfl, rfl⟩

theorem ChangesOneInstance.of_runOn_total {n : U4} {f : Reach → Reach} {ret : Reach → Ret}
    (h : runOn n s (fun r => some (f r, ret r)) = .next t) (heff : ∀ r, eff r (f r)) : ChangesOneInstance s t eff :=
  .of_runOn h fun r _ _ hop => by
    cases hop
    exact heff r

/-- A record afterwards is the one before, or what `eff` makes of it. -/
theorem ChangesOneInstance.getElem? (h : ChangesOneInstance s t eff) {k : Nat} {g g' : GenInst}
    (hg : s.insts[k]? = some g) (hg' : t.insts[k]? = some g') : g' = g ∨ ∃ r, eff ⟨s.shared, g⟩ r ∧ g' = r.inst := by
  obtain ⟨n, g₀, r, hn, heff, -, hinsts⟩ := h
  rw [hinsts, List.getElem?_set] at hg'
  split at hg'
  · rename_i hk
    subst hk
    obtain rfl : g₀ = g := Option.some.inj (hn.symm.trans hg)
    split at hg'
    · exact .inr ⟨r, heff, (Option.some.inj hg').symm⟩
    · cases hg'
  · exact .inl (Option.some.inj (hg'.symm.trans hg))

/-- What every record has, and `eff` keeps, every record has afterwards. -/
theorem ChangesOneInstance.forall_mem (h : ChangesOneInstance s t eff) {P : GenInst → Prop} (hs : ∀ g ∈ s.insts, P g)
    (hP : ∀ g r, P g → eff ⟨s.shared, g⟩ r → P r.inst) : ∀ g ∈ t.insts, P g := by
  obtain ⟨n, g₀, r, hn, heff, -, hinsts⟩ := h
  intro g hg
  rw [hinsts] at hg
  rcases List.mem_or_eq_of_mem_set hg with hg | rfl
  · exact hs g hg
  · exact hP g₀ r (hs g₀ (State.inst?_eq_some hn).2) heff

end ChangesOneInstance

/-! ### The host commands -/

/-- All that STEP can do to the singletons and the records. -/
theorem stepCommand_effect {n : U4} {s t : State} (h : stepCommand Config.chip n s = .next t) :
    (t.insts = s.insts ∧ t.shared = s.shared) ∨
    ChangesOneInstance s t fun r r' => InstanceEffect s.inp r (.step n) r' := by
  rcases stepCommand_next h with ⟨-, rfl⟩ | ⟨g, c, hg, hc, rfl⟩
  · exact .inl ⟨rfl, rfl⟩
  · exact .inr ⟨n, g, _, hg, .step n hc, rfl, rfl⟩

/-- All that WRPARAM can do (R111, R115). -/
theorem execWrparam_next {n : U4} {idx : U8} {imm : S16} {s t : State} (h : execWrparam n idx imm s = .next t) :
    t = s.notAccepted ∨
    ∃ g g', s.inst? n = some g ∧ g.writeParam idx imm = some g' ∧ t = (s.putInst n g').accepted := by
  unfold execWrparam writeParamOp at h
  cases hn : s.inst? n with
  | none => exact .inl (by simpa [hn] using h.symm)
  | some g =>
    cases hw : g.writeParam idx imm with
    | none => exact .inl (by simpa [hn, hw] using h.symm)
    | some g' => exact .inr ⟨g, g', rfl, hw, by simpa [hn, hw] using h.symm⟩

/-- RDPARAM writes the shell only (R112, R115). -/
theorem execRdparam_frame {n : U4} {idx : U8} {s t : State} (h : execRdparam n idx s = .next t) :
    t.insts = s.insts ∧ t.shared = s.shared := by
  unfold execRdparam at h
  split at h
  · cases h
    exact ⟨rfl, rfl⟩
  · split at h <;> (cases h; exact ⟨rfl, rfl⟩)

/-- RDHEX writes the shell only (R113, R115). -/
theorem execRdhex_frame {n : U4} {s t : State} (h : execRdhex n s = .next t) :
    t.insts = s.insts ∧ t.shared = s.shared := by
  unfold execRdhex at h
  split at h <;> (cases h; exact ⟨rfl, rfl⟩)

/-! ### Every operation -/

/-- All that an operation can do to the singletons and the records when it answers a next state. -/
theorem exec_next_cases {i : Instr} {s t : State} (h : exec i s = .next t) :
    (t.insts = s.insts ∧ SharedEffect s.shared i t.shared) ∨
    ChangesOneInstance s t fun r r' => InstanceEffect s.inp r i r' := by
  cases i with
  | nop | scale | quant | iseqOffLoop | iseqOffPend | noiseWhite =>
    cases h
    exact .inl ⟨rfl, .keep _⟩
  | step n =>
    rw [exec_step] at h
    rcases stepCommand_effect h with ⟨hinsts, hshared⟩ | heff
    · exact .inl ⟨hinsts, hshared ▸ .keep _⟩
    · exact .inr heff
  | wrparam n idx imm =>
    rcases execWrparam_next h with rfl | ⟨g, g', hg, hw, rfl⟩
    · exact .inl ⟨rfl, .keep _⟩
    · exact .inr ⟨n, g, ⟨s.shared, g'⟩, hg, .wrparam n idx imm hw, rfl, rfl⟩
  | rdparam n idx =>
    obtain ⟨hinsts, hshared⟩ := execRdparam_frame h
    exact .inl ⟨hinsts, hshared ▸ .keep _⟩
  | rdhex n =>
    obtain ⟨hinsts, hshared⟩ := execRdhex_frame h
    exact .inl ⟨hinsts, hshared ▸ .keep _⟩
  | rand =>
    cases h
    exact .inl ⟨rfl, .rand⟩
  | white =>
    cases h
    exact .inl ⟨rfl, .white⟩
  | noisePink w =>
    cases h
    exact .inl ⟨rfl, .noisePink w⟩
  | noiseBrown w =>
    cases h
    exact .inl ⟨rfl, .noiseBrown w⟩
  | noiseBlue w sr =>
    cases h
    exact .inl ⟨rfl, .noiseBlue w sr⟩
  | shuffle n =>
    rw [exec_shuffle] at h
    exact .inr (.of_runOn_total h fun _ => .shuffle n)
  | draw n =>
    rw [exec_draw] at h
    refine .inr (.of_runOn h fun r r' v ho => ?_)
    obtain ⟨d, hd, hr⟩ := Option.map_eq_some_iff.mp ho
    cases hr
    exact .draw n hd
  | hexcv n =>
    rw [exec_hexcv] at h
    exact .inr (.of_runOn_total h fun _ => .hexcv n)
  | iseqVal n =>
    rw [exec_iseqVal] at h
    exact .inr (.of_runOn_total h fun _ => .iseqVal n)
  | iseqAdv n =>
    rw [exec_iseqAdv] at h
    exact .inr (.of_runOn_total h fun _ => .iseqAdv n)
  | noise n =>
    rw [exec_noise] at h
    exact .inr (.of_runOn_total h fun _ => .noise n)
  | edge n input level =>
    rw [exec_edge] at h
    exact .inr (.of_runOn_total h fun _ => .edge n input level)
  | divide n =>
    rw [exec_divide] at h
    exact .inr (.of_runOn_total h fun _ => .divide n)

/-! ### Every step -/

theorem fetch_reset {s : State} {p : InPorts} {rest : List InPorts} (hh : s.host = p :: rest) (hr : p.rst = true) :
    s.fetch = .settled (State.reset.drive p rest) := by
  simp [State.fetch, hh, hr]

theorem fetch_undecodable {s : State} {p : InPorts} {rest : List InPorts} {e : DecodeError} (hh : s.host = p :: rest)
    (hr : p.rst = false) (hv : p.cmdValid = true) (hd : decode p.cmd = .error e) :
    s.fetch = .settled (s.drive p rest).notAccepted := by
  simp [State.fetch, hh, hr, hv, hd]

/-- What speaks of the singletons and the records only, holds after reset and is kept by every decoded command, is kept by
every step (R52). -/
theorem step_keeps {P : State → Prop}
    (hcongr : ∀ {s t : State}, P s → t.shared = s.shared → t.insts = s.insts → P t) (hreset : P State.reset)
    (hexec : ∀ {w : U32} {i : Instr} {s t : State}, decode w = .ok i → P s → exec i s = .next t → P t)
    {s t : State} (hs : P s) (h : step s = .next t) : P t := by
  rcases step_cases s with ⟨-, hstep⟩ |
    ⟨p, rest, -, ⟨-, hstep⟩ | ⟨-, -, hstep⟩ | ⟨-, -, -, hstep⟩ | ⟨-, -, i, hd, hstep⟩⟩
  all_goals rw [hstep] at h
  case inr.inr.inr.inr => exact hexec hd (hcongr (t := s.drive p rest) hs rfl rfl) h
  all_goals cases h
  · exact hs
  · exact hcongr hreset rfl rfl
  · exact hcongr hs rfl rfl
  · exact hcongr hs rfl rfl

end Sys2Proof.Machine
end

section
/-! The invariants of spec/10_state.md R52 (items 1 to 3, with the range of R25), the parameters (R40) and RNG
(R21): what each operation keeps, carried from the two kinds of effect to `exec` and to `step`. -/

namespace Sys2Proof.Machine

open Sys2Proof.Spec

/-! ### Permutations, cursors and the divider's range -/

/-- The invariant of what an operation of one generator reaches (R25, R26, R27). -/
structure Reach.Inv (r : Reach) : Prop where
  inst_inv : r.inst.Inv
  divcnt_le : r.shared.divcnt.toNat ≤ 32766

/-- An operation that leaves ORDER, CURSOR and DIVCNT keeps the invariant. -/
theorem Reach.Inv.congr {r r' : Reach} (hr : r.Inv) (ho : r'.inst.order = r.inst.order)
    (hc : r'.inst.cursor = r.inst.cursor) (hd : r'.shared.divcnt = r.shared.divcnt) : r'.Inv where
  inst_inv := ⟨ho ▸ hr.inst_inv.order_perm, hc ▸ hr.inst_inv.cursor_lt⟩
  divcnt_le := hd ▸ hr.divcnt_le

theorem toNat_add_one {w : Nat} {c : BitVec w} (h : c.toNat + 1 < 2 ^ w) : (c + 1).toNat = c.toNat + 1 := by
  have hone : (1 : BitVec w).toNat = 1 := Nat.mod_eq_of_lt ((Nat.le_add_left 1 _).trans_lt h)
  rw [BitVec.toNat_add_of_lt (by rwa [hone]), hone]

/-- R123: a shuffle only rearranges ORDER. -/
theorem shuffleOp_inv (cfg : Config) {r : Reach} (hr : r.Inv) : (shuffleOp cfg r).Inv where
  inst_inv := ⟨(shuffleOrder_perm _ _ _).trans hr.inst_inv.order_perm, hr.inst_inv.cursor_lt⟩
  divcnt_le := hr.divcnt_le

theorem drawOp_inv {cfg : Config} {r d : Reach} (hr : r.Inv) (hd : drawOp cfg r = some d) : d.Inv := by
  obtain ⟨-, ⟨hlt, rfl⟩ | ⟨-, rfl⟩⟩ := drawOp_cases hd
  · refine ⟨⟨hr.inst_inv.order_perm, ?_⟩, hr.divcnt_le⟩
    change (r.inst.cursor + 1).toNat < 64
    rw [toNat_add_one (by omega)]
    omega
  · refine ⟨⟨(shuffleOrder_perm _ _ _).trans hr.inst_inv.order_perm, ?_⟩, hr.divcnt_le⟩
    change (0 : U7).toNat < 64
    decide

/-- R25: DIVCNT rises only below the factor, which is at most 32767. -/
theorem divideOp_divcnt_le (r : Reach) : (divideOp r).shared.divcnt.toNat ≤ 32766 := by
  rcases divideOp_cases r with ⟨-, h⟩ | ⟨hlt, h⟩ <;> rw [h]
  · exact Nat.zero_le _
  · have hfactor : 2 * r.inst.p .clkDiv < 2 ^ 16 := BitVec.two_mul_toInt_lt
    change (r.shared.divcnt + 1).toNat ≤ 32766
    rw [toNat_add_one (by omega)]
    omega

theorem divideOp_inv {r : Reach} (hr : r.Inv) : (divideOp r).Inv where
  inst_inv := ⟨(divideOp_order r).symm ▸ hr.inst_inv.order_perm, (divideOp_cursor r).symm ▸ hr.inst_inv.cursor_lt⟩
  divcnt_le := divideOp_divcnt_le r

theorem edgeOp_inv {input : EdgeInput} {level : REAL} {r : Reach} (hr : r.Inv) : (edgeOp input level r).Inv :=
  hr.congr (edgeOp_order _ _ _) (edgeOp_cursor _ _ _) rfl

theorem clockPhase_inv {cfg : Config} {p : InPorts} {r c : Reach} (hr : r.Inv) (hc : clockPhase cfg p r = some c) :
    c.Inv := by
  rcases clockPhase_cases hc with ⟨-, rfl⟩ | ⟨-, d, hd, rfl⟩
  · exact edgeOp_inv hr
  · exact divideOp_inv (drawOp_inv (edgeOp_inv hr) hd)

theorem samplePhase_inv {cfg : Config} {p : InPorts} {r : Reach} (hr : r.Inv) : (samplePhase cfg p r).Inv := by
  obtain ⟨horder, hcursor, -, -, -, -, -, hdivcnt⟩ := samplePhase_frame cfg p r
  exact hr.congr horder hcursor hdivcnt

/-- All that WRPARAM can do to a record (R65, R111). -/
theorem writeParam_eq_some {g g' : GenInst} {idx : U8} {imm : S16} (h : g.writeParam idx imm = some g') :
    ∃ hidx : idx.toNat < 12, g' = { g with params := g.params.set idx.toNat imm hidx } := by
  unfold GenInst.writeParam at h
  split at h
  · exact ⟨by assumption, (Option.some.inj h).symm⟩
  · cases h

theorem InstanceEffect.inv {p : InPorts} {r r' : Reach} {i : Instr} (h : InstanceEffect p r i r') (hr : r.Inv) :
    r'.Inv := by
  cases h with
  | step n hc => exact samplePhase_inv (clockPhase_inv hr hc)
  | wrparam n idx imm hg =>
    obtain ⟨-, rfl⟩ := writeParam_eq_some hg
    exact hr.congr rfl rfl rfl
  | shuffle n => exact shuffleOp_inv _ hr
  | draw n hd => exact drawOp_inv hr hd
  | hexcv n => exact hr.congr rfl rfl rfl
  | iseqVal n => exact hr.congr rfl rfl rfl
  | iseqAdv n => exact hr.congr rfl rfl rfl
  | noise n => exact hr.congr rfl rfl (noiseOp_divcnt _ _ _)
  | edge n input level => exact edgeOp_inv hr
  | divide n => exact divideOp_inv hr

/-- No operation that reaches the singletons alone writes DIVCNT. -/
theorem SharedEffect.divcnt {h h' : Shared} {i : Instr} (he : SharedEffect h i h') : h'.divcnt = h.divcnt := by
  cases he <;> rfl

theorem State.Inv.congr {s t : State} (hs : s.Inv) (hdivcnt : t.shared.divcnt = s.shared.divcnt)
    (hinsts : t.insts = s.insts) : t.Inv where
  inst_count := hinsts ▸ hs.inst_count
  inst_inv := hinsts ▸ hs.inst_inv
  divcnt_le := hdivcnt ▸ hs.divcnt_le

theorem State.Inv.reach {s : State} (hs : s.Inv) {n : U4} {g : GenInst} (hg : s.inst? n = some g) :
    (⟨s.shared, g⟩ : Reach).Inv :=
  ⟨hs.inst_inv g (State.inst?_eq_some hg).2, hs.divcnt_le⟩

/-- An effect on one record that keeps the invariant of what it reaches keeps the invariant of the block. -/
theorem ChangesOneInstance.inv {s t : State} {eff : Reach → Reach → Prop} (h : ChangesOneInstance s t eff)
    (heff : ∀ r r', eff r r' → r.Inv → r'.Inv) (hs : s.Inv) : t.Inv where
  inst_count := by
    obtain ⟨n, g, r, -, -, -, hinsts⟩ := h
    rw [hinsts, List.length_set, hs.inst_count]
  inst_inv := h.forall_mem hs.inst_inv fun _ _ hg he => (heff _ _ he ⟨hg, hs.divcnt_le⟩).inst_inv
  divcnt_le := by
    obtain ⟨n, g, r, hg, he, hshared, -⟩ := h
    exact hshared ▸ (heff _ _ he (hs.reach hg)).divcnt_le

/-- Settles O10: an effect on the singletons leaves DIVCNT, and an effect on one record keeps the invariant of what it
reaches. -/
theorem everyOperationKeepsInvariant : Obligations.EveryOperationKeepsInvariant := by
  intro i s t hs h
  rcases exec_next_cases h with ⟨hinsts, heff⟩ | heff
  · exact hs.congr heff.divcnt hinsts
  · exact heff.inv (fun _ _ he hr => he.inv hr) hs

/-- Settles O9: the reset state has the invariant, every operation keeps it, and a step does nothing else to what it speaks
of. -/
theorem stepKeepsInvariant : Obligations.StepKeepsInvariant := by
  intro s t hs h
  refine step_keeps (P := State.Inv) (fun hP hshared hinsts => hP.congr (hshared ▸ rfl) hinsts) reset_inv ?_ hs h
  intro w i s t _ hs h
  exact everyOperationKeepsInvariant i s t hs h

/-! ### The lines of the last draw -/

theorem showsLastDraw_congr {g g' : GenInst} (hg : g.showsLastDraw) (ho : g'.order = g.order)
    (hc : g'.cursor = g.cursor) (hl : g'.lines = g.lines) : g'.showsLastDraw := by
  unfold GenInst.showsLastDraw GenInst.readOrder GenInst.hexval at *
  rwa [ho, hc, hl]

/-- Whatever the lines showed before it, a draw puts the entry it read on them (R124); where it ends the epoch, nothing of
the next one is drawn yet. -/
theorem drawOp_showsLastDraw {cfg : Config} {r d : Reach} (hd : drawOp cfg r = some d) : d.inst.showsLastDraw := by
  obtain ⟨hc, ⟨hlt, rfl⟩ | ⟨-, rfl⟩⟩ := drawOp_cases hd
  · intro _
    have hcursor : (r.inst.cursor + 1).toNat - 1 = r.inst.cursor.toNat := by
      rw [toNat_add_one (by omega), Nat.add_sub_cancel]
    simp only [hcursor, GenInst.hexval, hexOf_linesOf]
    exact readOrder_of_lt (g := r.inst) hc
  · exact showsLastDraw_of_cursor_zero rfl

theorem clockPhase_showsLastDraw {cfg : Config} {p : InPorts} {r c : Reach} (hr : r.inst.showsLastDraw)
    (hc : clockPhase cfg p r = some c) : c.inst.showsLastDraw := by
  rcases clockPhase_cases hc with ⟨-, rfl⟩ | ⟨-, d, hd, rfl⟩
  · exact showsLastDraw_congr hr (edgeOp_order _ _ _) (edgeOp_cursor _ _ _) (edgeOp_lines _ _ _)
  · exact showsLastDraw_congr (drawOp_showsLastDraw hd) (divideOp_order d) (divideOp_cursor d) (divideOp_lines d)

theorem samplePhase_showsLastDraw {cfg : Config} {p : InPorts} {r : Reach} (hr : r.inst.showsLastDraw) :
    (samplePhase cfg p r).inst.showsLastDraw := by
  obtain ⟨horder, hcursor, hlines, -⟩ := samplePhase_frame cfg p r
  exact showsLastDraw_congr hr horder hcursor hlines

/-- Every operation but SHUFFLE keeps R52 item 3: a shuffle run on its own moves the entry before the cursor. -/
theorem InstanceEffect.showsLastDraw {p : InPorts} {r r' : Reach} {i : Instr} (h : InstanceEffect p r i r')
    (hi : i.mnemonic ≠ "SHUFFLE") (hr : r.inst.showsLastDraw) : r'.inst.showsLastDraw := by
  cases h with
  | step n hc => exact samplePhase_showsLastDraw (clockPhase_showsLastDraw hr hc)
  | wrparam n idx imm hg =>
    obtain ⟨-, rfl⟩ := writeParam_eq_some hg
    exact showsLastDraw_congr hr rfl rfl rfl
  | shuffle n => exact absurd rfl hi
  | draw n hd => exact drawOp_showsLastDraw hd
  | hexcv n => exact showsLastDraw_congr hr rfl rfl rfl
  | iseqVal n => exact showsLastDraw_congr hr rfl rfl rfl
  | iseqAdv n => exact showsLastDraw_congr hr rfl rfl rfl
  | noise n => exact showsLastDraw_congr hr rfl rfl rfl
  | edge n input level =>
    exact showsLastDraw_congr hr (edgeOp_order _ _ _) (edgeOp_cursor _ _ _) (edgeOp_lines _ _ _)
  | divide n => exact showsLastDraw_congr hr (divideOp_order r) (divideOp_cursor r) (divideOp_lines r)

/-- No command word selects SHUFFLE (R83, R95). -/
theorem decode_ne_shuffle {w : U32} {i : Instr} (h : decode w = .ok i) : i.mnemonic ≠ "SHUFFLE" := by
  obtain ⟨-, -, -, -, rfl⟩ | ⟨-, -, -, rfl⟩ | ⟨-, -, rfl⟩ | ⟨-, -, -, rfl⟩ | ⟨-, -, -, rfl⟩ := decode_ok_cases h
  all_goals simp [Instr.mnemonic]

/-- Settles O11: a command word never selects SHUFFLE, and every other operation keeps the lines of each record. -/
theorem stepKeepsLinesOfLastDraw : Obligations.StepKeepsLinesOfLastDraw := by
  intro s t _ hs h
  refine step_keeps (P := State.ShowsDraws) (fun hP _ hinsts => ?_) reset_showsDraws ?_ hs h
  · unfold State.ShowsDraws
    rwa [hinsts]
  · intro w i s t hd hs h
    rcases exec_next_cases h with ⟨hinsts, -⟩ | heff
    · unfold State.ShowsDraws
      rwa [hinsts]
    · exact heff.forall_mem hs fun _ _ hg he => he.showsLastDraw (decode_ne_shuffle hd) hg

/-! ### The parameters -/

theorem drawOp_params {cfg : Config} {r d : Reach} (hd : drawOp cfg r = some d) : d.inst.params = r.inst.params := by
  obtain ⟨-, ⟨-, rfl⟩ | ⟨-, rfl⟩⟩ := drawOp_cases hd <;> rfl

theorem clockPhase_params {cfg : Config} {p : InPorts} {r c : Reach} (hc : clockPhase cfg p r = some c) :
    c.inst.params = r.inst.params := by
  rcases clockPhase_cases hc with ⟨-, rfl⟩ | ⟨-, d, hd, rfl⟩
  · exact edgeOp_params _ _ _
  · rw [divideOp_params, drawOp_params hd, edgeOp_params]

theorem samplePhase_params (cfg : Config) (p : InPorts) (r : Reach) :
    (samplePhase cfg p r).inst.params = r.inst.params := by
  obtain ⟨-, -, -, -, -, hparams, -⟩ := samplePhase_frame cfg p r
  exact hparams

theorem InstanceEffect.params {p : InPorts} {r r' : Reach} {i : Instr} (h : InstanceEffect p r i r')
    (hi : i.mnemonic ≠ "WRPARAM") : r'.inst.params = r.inst.params := by
  cases h with
  | step n hc => rw [samplePhase_params, clockPhase_params hc]
  | wrparam n idx imm hg => exact absurd rfl hi
  | draw n hd => exact drawOp_params hd
  | edge n input level => exact edgeOp_params _ _ _
  | divide n => exact divideOp_params r
  | shuffle | hexcv | iseqVal | iseqAdv | noise => rfl

/-- Settles O22: the record is unchanged, or what an operation other than WRPARAM makes of it. -/
theorem parametersWrittenByWrparamOnly : Obligations.ParametersWrittenByWrparamOnly := by
  intro i s t hi h k g g' hg hg'
  rcases exec_next_cases h with ⟨hinsts, -⟩ | heff
  · rw [hinsts, hg] at hg'
    rw [Option.some.inj hg']
  · rcases heff.getElem? hg hg' with rfl | ⟨r, he, rfl⟩
    · rfl
    · exact he.params hi

/-! ### RNG -/

theorem advance_add (j k : Nat) (rng : U32) : advance j (advance k rng) = advance (j + k) rng :=
  (Function.iterate_add_apply _ j k rng).symm

/-- R21, R121 of one operation, with RNG `a` before it and `b` after it. -/
def MovesGenerator (i : Instr) (a b : U32) : Prop :=
  (b = a ∨ b = advance 1 a ∨ b = advance 63 a ∨ b = advance 64 a) ∧
  (i.mnemonic ∉ ["STEP", "RAND", "SHUFFLE", "DRAW", "WHITE", "NOISE"] → b = a)

theorem MovesGenerator.of_eq {i : Instr} {a b : U32} (h : b = a) : MovesGenerator i a b :=
  ⟨.inl h, fun _ => h⟩

theorem MovesGenerator.of_mem {i : Instr} {a b : U32}
    (hi : i.mnemonic ∈ ["STEP", "RAND", "SHUFFLE", "DRAW", "WHITE", "NOISE"])
    (h : b = a ∨ b = advance 1 a ∨ b = advance 63 a ∨ b = advance 64 a) : MovesGenerator i a b :=
  ⟨h, fun hn => absurd hi hn⟩

/-- A draw makes the 63 RAND calls of a shuffle or none (R124). -/
theorem drawOp_rng {r d : Reach} (hd : drawOp Config.chip r = some d) :
    d.shared.rng = r.shared.rng ∨ d.shared.rng = advance 63 r.shared.rng := by
  obtain ⟨-, ⟨-, rfl⟩ | ⟨-, rfl⟩⟩ := drawOp_cases hd
  · exact .inl rfl
  · exact .inr (shuffleOrder_rng _ _ r.inst.order)

theorem clockPhase_rng {p : InPorts} {r c : Reach} (hc : clockPhase Config.chip p r = some c) :
    c.shared.rng = r.shared.rng ∨ c.shared.rng = advance 63 r.shared.rng := by
  rcases clockPhase_cases hc with ⟨-, rfl⟩ | ⟨-, d, hd, rfl⟩
  · exact .inl rfl
  · rw [divideOp_rng, ← edgeOp_shared .clk (q16Value p.clkIn) r]
    exact drawOp_rng hd

/-- The one RAND call of NOISE (R190). -/
theorem samplePhase_rng (p : InPorts) (r : Reach) :
    (samplePhase Config.chip p r).shared.rng = advance 1 r.shared.rng := by
  obtain ⟨-, -, -, -, -, -, hrng, -⟩ := samplePhase_frame Config.chip p r
  exact hrng

theorem InstanceEffect.movesGenerator {p : InPorts} {r r' : Reach} {i : Instr} (h : InstanceEffect p r i r') :
    MovesGenerator i r.shared.rng r'.shared.rng := by
  cases h with
  | step n hc =>
    refine .of_mem (by simp [Instr.mnemonic]) ?_
    rw [samplePhase_rng]
    rcases clockPhase_rng hc with hrng | hrng <;> rw [hrng]
    · exact .inr (.inl rfl)
    · exact .inr (.inr (.inr (advance_add 1 63 _)))
  | shuffle n => exact .of_mem (by simp [Instr.mnemonic]) (.inr (.inr (.inl (shuffleOrder_rng _ _ r.inst.order))))
  | draw n hd =>
    refine .of_mem (by simp [Instr.mnemonic]) ?_
    rcases drawOp_rng hd with hrng | hrng
    · exact .inl hrng
    · exact .inr (.inr (.inl hrng))
  | noise n => exact .of_mem (by simp [Instr.mnemonic]) (.inr (.inl (noiseOp_rng _ _ _)))
  | divide n => exact .of_eq (divideOp_rng r)
  | wrparam | hexcv | iseqVal | iseqAdv | edge => exact .of_eq rfl

theorem SharedEffect.movesGenerator {h h' : Shared} {i : Instr} (he : SharedEffect h i h') :
    MovesGenerator i h.rng h'.rng := by
  cases he with
  | rand | white => exact .of_mem (by simp [Instr.mnemonic]) (.inr (.inl rfl))
  | keep | noisePink | noiseBrown | noiseBlue => exact .of_eq rfl

/-- Settles O30: RAND and WHITE make one call, a shuffle 63, and a STEP one or 63 and one. -/
theorem generatorAdvancesByRandOnly : Obligations.GeneratorAdvancesByRandOnly := by
  intro i s t h
  rcases exec_next_cases h with ⟨-, heff⟩ | ⟨n, g, r, -, heff, hshared, -⟩
  · exact heff.movesGenerator
  · rw [hshared]
    exact heff.movesGenerator

end Sys2Proof.Machine
end

section
/-! What a STEP leaves alone: the other records and the shell (spec/10_state.md R20), the filters that NOISE_TYPE does not
select (R52 item 5); and that BLUE_PREV reaches nothing (R24). -/

namespace Sys2Proof.Machine

/-! ### The other records and the shell -/

/-- Settles O58: a STEP that runs writes back the record it reached and CMD_ERR; for an absent generator it is not accepted. -/
theorem stepTouchesOneInstance : Obligations.StepTouchesOneInstance := by
  intro s t n h
  rw [exec_step] at h
  rcases stepCommand_next h with ⟨-, rfl⟩ | ⟨g, c, hg, -, rfl⟩
  · exact ⟨fun _ _ => rfl, rfl, rfl, rfl, rfl, rfl, fun _ => rfl⟩
  · have hpresent : n.toNat < s.insts.length := (State.inst?_eq_some hg).1
    refine ⟨fun m hm => ?_, ?_, rfl, rfl, rfl, rfl, fun habsent => absurd hpresent habsent.not_gt⟩
    · rw [State.accepted_insts, State.putReach_insts, List.getElem?_set_ne hm.symm]
    · rw [State.accepted_insts, State.putReach_insts, List.length_set]

/-! ### The filter state -/

/-- What a selector `typ` leaves of the three filters' state. -/
def KeepsUnselectedFilters (typ : Int) (h h' : Shared) : Prop :=
  (typ ≠ 1 → h'.pink = h.pink) ∧ (typ ≠ 2 → h'.brown = h.brown) ∧ (typ ≠ 3 → h'.bluePrev = h.bluePrev)

theorem filterOp_keepsUnselected (cfg : Config) (typ : Int) (sr : U32) (w : REAL) (h : Shared) :
    KeepsUnselectedFilters typ h (filterOp cfg typ sr w h).1 := by
  unfold filterOp
  split
  · exact ⟨fun _ => rfl, fun _ => rfl, fun _ => rfl⟩
  · split
    · rename_i htyp
      exact ⟨(absurd htyp ·), fun _ => rfl, fun _ => rfl⟩
    · split
      · rename_i htyp
        exact ⟨fun _ => rfl, (absurd htyp ·), fun _ => rfl⟩
      · split
        · rename_i htyp
          exact ⟨fun _ => rfl, fun _ => rfl, (absurd htyp ·)⟩
        · exact ⟨fun _ => rfl, fun _ => rfl, fun _ => rfl⟩

theorem noiseOp_keepsUnselected (cfg : Config) (sr : U32) (r : Reach) :
    KeepsUnselectedFilters (r.inst.p .noiseType) r.shared (noiseOp cfg sr r).shared :=
  filterOp_keepsUnselected cfg (r.inst.p .noiseType) sr (whiteOp cfg r.shared).2 (whiteOp cfg r.shared).1

theorem GenInst.p_congr {g g' : GenInst} (h : g'.params = g.params) (k : Param) : g'.p k = g.p k := by
  rw [GenInst.p, GenInst.p, h]

/-- NOISE is the only line of a sample that writes a singleton, and the lines before it write no parameter. -/
theorem samplePhase_keepsUnselected (cfg : Config) (p : InPorts) (r : Reach) :
    KeepsUnselectedFilters (r.inst.p .noiseType) r.shared (samplePhase cfg p r).shared := by
  have hparams : (iseqValOp cfg (triggerPhase p (quantRawOp cfg (hexcvOp cfg r)))).inst.params = r.inst.params := by
    rw [iseqValOp_params, triggerPhase_inst]
    rfl
  have hnoise := noiseOp_keepsUnselected cfg p.sr (iseqValOp cfg (triggerPhase p (quantRawOp cfg (hexcvOp cfg r))))
  rwa [GenInst.p_congr hparams, iseqValOp_shared, triggerPhase_shared, quantRawOp_shared, hexcvOp_shared] at hnoise

theorem drawOp_shared {cfg : Config} {r d : Reach} (hd : drawOp cfg r = some d) :
    d.shared = { r.shared with rng := d.shared.rng } := by
  obtain ⟨-, ⟨-, rfl⟩ | ⟨-, rfl⟩⟩ := drawOp_cases hd <;> rfl

theorem divideOp_shared (r : Reach) : (divideOp r).shared = { r.shared with divcnt := (divideOp r).shared.divcnt } := by
  rcases divideOp_cases r with ⟨-, h⟩ | ⟨-, h⟩ <;> rw [h]

/-- The clock's part of a STEP writes RNG and DIVCNT alone of the singletons. -/
theorem clockPhase_shared {cfg : Config} {p : InPorts} {r c : Reach} (hc : clockPhase cfg p r = some c) :
    c.shared = { r.shared with rng := c.shared.rng, divcnt := c.shared.divcnt } := by
  rcases clockPhase_cases hc with ⟨-, rfl⟩ | ⟨-, d, hd, rfl⟩
  · rfl
  · rw [divideOp_shared, drawOp_shared hd, edgeOp_shared]

/-- Settles O49: the clock's part of a STEP writes no filter state, and NOISE runs the selected filter only. -/
theorem filterStateChangesOnlyWhenSelected : Obligations.FilterStateChangesOnlyWhenSelected := by
  intro s t n g hg h
  rw [exec_step] at h
  rcases stepCommand_next h with ⟨-, rfl⟩ | ⟨g₀, c, hg₀, hc, rfl⟩
  · exact ⟨fun _ => rfl, fun _ => rfl, fun _ => rfl⟩
  · obtain rfl : g₀ = g := Option.some.inj (hg₀.symm.trans hg)
    have hsample := samplePhase_keepsUnselected Config.chip s.inp c
    rwa [GenInst.p_congr (clockPhase_params hc), clockPhase_shared hc] at hsample

/-! ### BLUE_PREV -/

/-- The singletons with another BLUE_PREV. -/
def Shared.withBlue (h : Shared) (x : REAL) : Shared := { h with bluePrev := x }

/-- What an operation of one generator reaches, with another BLUE_PREV. -/
def Reach.withBlue (r : Reach) (x : REAL) : Reach := { r with shared := r.shared.withBlue x }

/-- The state with another BLUE_PREV. -/
def State.withBlue (s : State) (x : REAL) : State := { s with shared := s.shared.withBlue x }

@[simp] theorem Reach.withBlue_inst (r : Reach) (x : REAL) : (r.withBlue x).inst = r.inst := rfl

@[simp] theorem Reach.withBlue_shared (r : Reach) (x : REAL) : (r.withBlue x).shared = r.shared.withBlue x := rfl

@[simp] theorem Shared.withBlue_divcnt (h : Shared) (x : REAL) : (h.withBlue x).divcnt = h.divcnt := rfl

@[simp] theorem State.withBlue_inst? (s : State) (x : REAL) (n : U4) : (s.withBlue x).inst? n = s.inst? n := rfl

theorem drawOp_withBlue (cfg : Config) (r : Reach) (x : REAL) :
    drawOp cfg (r.withBlue x) = (drawOp cfg r).map (·.withBlue x) := by
  unfold drawOp
  rw [Reach.withBlue_inst]
  cases r.inst.readOrder r.inst.cursor.toNat with
  | none => rfl
  | some h =>
    dsimp only
    split <;> rfl

theorem divideOp_withBlue (r : Reach) (x : REAL) : divideOp (r.withBlue x) = (divideOp r).withBlue x := by
  unfold divideOp
  rw [Reach.withBlue_inst, Reach.withBlue_shared, Shared.withBlue_divcnt]
  split <;> rfl

theorem edgeOp_withBlue (input : EdgeInput) (level : REAL) (r : Reach) (x : REAL) :
    edgeOp input level (r.withBlue x) = (edgeOp input level r).withBlue x := rfl

theorem clockPhase_withBlue {cfg : Config} {p : InPorts} {r c : Reach} (hc : clockPhase cfg p r = some c) (x : REAL) :
    clockPhase cfg p (r.withBlue x) = some (c.withBlue x) := by
  rw [clockPhase, Reach.withBlue_inst, edgeOp_withBlue, drawOp_withBlue]
  rcases clockPhase_cases hc with ⟨hrise, rfl⟩ | ⟨hrise, d, hd, rfl⟩
  · simp [hrise]
  · simp [hrise, hd, divideOp_withBlue]

theorem triggerPhase_withBlue (p : InPorts) (r : Reach) (x : REAL) :
    triggerPhase p (r.withBlue x) = (triggerPhase p r).withBlue x := by
  unfold triggerPhase
  rw [Reach.withBlue_inst]
  split <;> rfl

theorem iseqValOp_withBlue (cfg : Config) (r : Reach) (x : REAL) :
    iseqValOp cfg (r.withBlue x) = (iseqValOp cfg r).withBlue x := rfl

/-- No filter reads BLUE_PREV, and NOISE.BLUE alone writes it: with its input (R188). -/
theorem filterOp_withBlue (cfg : Config) (typ : Int) (sr : U32) (w : REAL) (h : Shared) (x : REAL) :
    filterOp cfg typ sr w (h.withBlue x) =
      ((filterOp cfg typ sr w h).1.withBlue (if typ = 3 then w else x), (filterOp cfg typ sr w h).2) := by
  unfold filterOp
  split
  · rw [if_neg (by omega)]
    rfl
  · split
    · rw [if_neg (by omega)]
      rfl
    · split
      · rw [if_neg (by omega)]
        rfl
      · split
        · rfl
        · rfl

theorem whiteOp_withBlue (cfg : Config) (h : Shared) (x : REAL) :
    whiteOp cfg (h.withBlue x) = ((whiteOp cfg h).1.withBlue x, (whiteOp cfg h).2) := rfl

theorem noiseOp_withBlue (cfg : Config) (sr : U32) (r : Reach) (x : REAL) :
    noiseOp cfg sr (r.withBlue x) =
      (noiseOp cfg sr r).withBlue (if r.inst.p .noiseType = 3 then (whiteOp cfg r.shared).2 else x) := by
  unfold noiseOp
  simp only [Reach.withBlue_inst, Reach.withBlue_shared, whiteOp_withBlue, filterOp_withBlue]
  rfl

/-- A sample reads BLUE_PREV nowhere (R24). -/
theorem samplePhase_withBlue (cfg : Config) (p : InPorts) (r : Reach) (x : REAL) :
    ∃ y, samplePhase cfg p (r.withBlue x) = (samplePhase cfg p r).withBlue y := by
  have hnoise := noiseOp_withBlue cfg p.sr (iseqValOp cfg (triggerPhase p (quantRawOp cfg (hexcvOp cfg r)))) x
  rw [← iseqValOp_withBlue, ← triggerPhase_withBlue] at hnoise
  exact ⟨_, hnoise⟩

/-! ### BLUE_PREV through the five commands -/

theorem stepCommand_of_absent {cfg : Config} {n : U4} {s : State} (h : s.inst? n = none) :
    stepCommand cfg n s = .next s.notAccepted := by
  rw [stepCommand, State.reach?_eq_none_iff.mpr h]

theorem stepCommand_withBlue {cfg : Config} {n : U4} {s t : State} (h : stepCommand cfg n s = .next t) (x : REAL) :
    ∃ y, stepCommand cfg n (s.withBlue x) = .next (t.withBlue y) := by
  rcases stepCommand_next h with ⟨hn, rfl⟩ | ⟨g, c, hg, hc, rfl⟩
  · exact ⟨x, stepCommand_of_absent (s := s.withBlue x) hn⟩
  · obtain ⟨y, hy⟩ := samplePhase_withBlue cfg s.inp c x
    refine ⟨y, ?_⟩
    rw [stepCommand_of_inst (s := s.withBlue x) hg (clockPhase_withBlue hc x)]
    change Host.Outcome.next (((s.withBlue x).putReach n (samplePhase cfg s.inp (c.withBlue x))).accepted) = _
    rw [hy]
    rfl

theorem execWrparam_withBlue {n : U4} {idx : U8} {imm : S16} {s t : State} (h : execWrparam n idx imm s = .next t)
    (x : REAL) : execWrparam n idx imm (s.withBlue x) = .next (t.withBlue x) := by
  unfold execWrparam writeParamOp at h ⊢
  rw [State.withBlue_inst?]
  cases hn : s.inst? n with
  | none =>
    simp only [hn] at h
    cases h
    rfl
  | some g =>
    cases hw : g.writeParam idx imm <;>
      (simp only [hn, hw] at h ⊢; cases h; rfl)

theorem execRdparam_withBlue {n : U4} {idx : U8} {s t : State} (h : execRdparam n idx s = .next t) (x : REAL) :
    execRdparam n idx (s.withBlue x) = .next (t.withBlue x) := by
  unfold execRdparam at h ⊢
  rw [State.withBlue_inst?]
  cases hn : s.inst? n with
  | none =>
    simp only [hn] at h
    cases h
    rfl
  | some g =>
    cases hr : g.readParam idx <;>
      (simp only [hn, hr] at h ⊢; cases h; rfl)

theorem execRdhex_withBlue {n : U4} {s t : State} (h : execRdhex n s = .next t) (x : REAL) :
    execRdhex n (s.withBlue x) = .next (t.withBlue x) := by
  unfold execRdhex at h ⊢
  rw [State.withBlue_inst?]
  cases hn : s.inst? n <;>
    (simp only [hn] at h; cases h; rfl)

/-- A command from the state with another BLUE_PREV (R83 has the five commands). -/
theorem exec_withBlue {w : U32} {i : Instr} {s t : State} (hd : decode w = .ok i) (h : exec i s = .next t) (x : REAL) :
    ∃ y, exec i (s.withBlue x) = .next (t.withBlue y) := by
  obtain ⟨-, -, -, -, rfl⟩ | ⟨-, -, -, rfl⟩ | ⟨-, -, rfl⟩ | ⟨-, -, -, rfl⟩ | ⟨-, -, -, rfl⟩ := decode_ok_cases hd
  · cases h
    exact ⟨x, rfl⟩
  · exact stepCommand_withBlue h x
  · exact ⟨x, execWrparam_withBlue h x⟩
  · exact ⟨x, execRdparam_withBlue h x⟩
  · exact ⟨x, execRdhex_withBlue h x⟩

/-- Settles O48: the presentation is fetched alike, a reset or an idle presentation reads nothing, and each command commutes
with the change of BLUE_PREV. -/
theorem bluePrevNeverObserved : Obligations.BluePrevNeverObserved := by
  intro s t x h
  change ∃ y, step (s.withBlue x) = .next (t.withBlue y)
  rcases step_cases s with ⟨hh, hstep⟩ |
    ⟨p, rest, hh, ⟨hr, hstep⟩ | ⟨hr, hv, hstep⟩ | ⟨hr, hv, ⟨e, hd⟩, hstep⟩ | ⟨hr, hv, i, hd, hstep⟩⟩
  all_goals rw [hstep] at h
  case inr.inr.inr.inr =>
    obtain ⟨y, hy⟩ := exec_withBlue hd h x
    exact ⟨y, (step_of_fetch_run (fetch_run (s := s.withBlue x) hh hr hv hd)).trans hy⟩
  all_goals cases h
  · exact ⟨x, step_of_fetch_settled (fetch_nothing_presented (s := s.withBlue x) hh)⟩
  · exact ⟨State.reset.shared.bluePrev, step_of_fetch_settled (fetch_reset (s := s.withBlue x) hh hr)⟩
  · exact ⟨x, step_of_fetch_settled (fetch_no_command (s := s.withBlue x) hh hr hv)⟩
  · exact ⟨x, step_of_fetch_settled (fetch_undecodable (s := s.withBlue x) hh hr hv hd)⟩

end Sys2Proof.Machine
end

section
/-! The output ports (spec/10_state.md R50, spec/70_reset_and_hazards.md R271): the default port format, and which register
stands on which port. -/

namespace Sys2Proof.Machine

/-! ### Rounding half to even -/

/-- The default OUT_FMT's rounding: within 1/2, and at a tie the even neighbour (R50). -/
theorem roundHalfEven_spec (x : REAL) :
    |(roundHalfEven x : REAL) - x| ≤ 1 / 2 ∧ (|(roundHalfEven x : REAL) - x| = 1 / 2 → 2 ∣ roundHalfEven x) := by
  have hfloor := Rat.floor_le x
  have hceil : x < (x.floor : REAL) + 1 := by exact_mod_cast Rat.lt_floor_add_one x
  simp only [roundHalfEven]
  split
  · have habs : |(x.floor : REAL) - x| = x - x.floor := by rw [abs_sub_comm, abs_of_nonneg (by linarith)]
    rw [habs]
    exact ⟨by linarith, fun htie => by linarith⟩
  · have habs : |((x.floor + 1 : Int) : REAL) - x| = x.floor + 1 - x := by
      rw [Int.cast_add, Int.cast_one, abs_of_nonneg (by linarith)]
    split
    · rw [habs]
      exact ⟨by linarith, fun htie => by linarith⟩
    · split
      · rename_i heven
        refine ⟨?_, fun _ => Int.dvd_of_emod_eq_zero heven⟩
        rw [abs_sub_comm, abs_of_nonneg (by linarith)]
        linarith
      · rw [habs]
        exact ⟨by linarith, fun _ => by omega⟩

/-- The result lies between the integers that the argument lies between. -/
theorem le_roundHalfEven {x : REAL} {n : Int} (h : (n : REAL) ≤ x) : n ≤ roundHalfEven x := by
  obtain ⟨hlo, -⟩ := abs_le.mp (roundHalfEven_spec x).1
  have hlt : (n : REAL) < ((roundHalfEven x + 1 : Int) : REAL) := by
    push_cast
    linarith
  exact Int.lt_add_one_iff.mp (Int.cast_lt.mp hlt)

theorem roundHalfEven_le {x : REAL} {n : Int} (h : x ≤ (n : REAL)) : roundHalfEven x ≤ n := by
  obtain ⟨-, hhi⟩ := abs_le.mp (roundHalfEven_spec x).1
  have hlt : (roundHalfEven x : REAL) < ((n + 1 : Int) : REAL) := by
    push_cast
    linarith
  exact Int.lt_add_one_iff.mp (Int.cast_lt.mp hlt)

theorem roundHalfEven_intCast (n : Int) : roundHalfEven (n : REAL) = n :=
  le_antisymm (roundHalfEven_le le_rfl) (le_roundHalfEven le_rfl)

/-! ### Saturation, and the default port format -/

/-- The nearest 32-bit two's-complement value: what the default OUT_FMT does beyond the ends (R50). -/
def saturate (n : Int) : Int := max (-(2 : Int) ^ 31) (min ((2 : Int) ^ 31 - 1) n)

theorem q16Out_eq (x : REAL) : q16Out x = (saturate (roundHalfEven (x * 65536)) : REAL) / 65536 := rfl

theorem saturate_of_mem {n : Int} (hlo : -(2 : Int) ^ 31 ≤ n) (hhi : n ≤ (2 : Int) ^ 31 - 1) : saturate n = n := by
  rw [saturate, min_eq_right hhi, max_eq_right hlo]

theorem saturate_of_ge {n : Int} (h : (2 : Int) ^ 31 - 1 ≤ n) : saturate n = (2 : Int) ^ 31 - 1 := by
  rw [saturate, min_eq_left h]
  rfl

theorem saturate_of_le {n : Int} (h : n ≤ -(2 : Int) ^ 31) : saturate n = -(2 : Int) ^ 31 := by
  rw [saturate, max_eq_left ((min_le_right _ _).trans h)]

theorem exists_toInt_eq_saturate (n : Int) : ∃ w : S32, w.toInt = saturate n := by
  refine ⟨BitVec.ofInt 32 (saturate n), BitVec.toInt_ofInt_eq_self (by decide) ?_ ?_⟩
  · exact le_max_left _ _
  · exact max_lt (by decide) ((min_le_left _ _).trans_lt (by decide))

/-- Every value goes to a Q16.16 value; in the range, to the nearest one, an even word at a tie (R50). -/
theorem q16Out_nearest (x : REAL) :
    ∃ w : S32, q16Out x = q16Value w ∧
      (-32768 ≤ x → x ≤ 2147483647 / 65536 →
        |q16Out x - x| ≤ 1 / 131072 ∧ (|q16Out x - x| = 1 / 131072 → 2 ∣ w.toInt)) := by
  obtain ⟨w, hw⟩ := exists_toInt_eq_saturate (roundHalfEven (x * 65536))
  refine ⟨w, by rw [q16Value, hw, q16Out_eq], fun hlo hhi => ?_⟩
  have hrange : saturate (roundHalfEven (x * 65536)) = roundHalfEven (x * 65536) :=
    saturate_of_mem (le_roundHalfEven (by push_cast; linarith)) (roundHalfEven_le (by push_cast; linarith))
  have hdist : |q16Out x - x| = |(roundHalfEven (x * 65536) : REAL) - x * 65536| / 65536 := by
    rw [q16Out_eq, hrange, ← abs_of_pos (show (0 : REAL) < 65536 by norm_num), ← abs_div,
      abs_of_pos (show (0 : REAL) < 65536 by norm_num)]
    congr 1
    ring
  obtain ⟨hnear, htie⟩ := roundHalfEven_spec (x * 65536)
  rw [hdist, hw, hrange]
  exact ⟨by linarith, fun h => htie (by linarith)⟩

theorem q16Out_q16Value (w : S32) : q16Out (q16Value w) = q16Value w := by
  have hlo : -(2 : Int) ^ 31 ≤ w.toInt := BitVec.le_toInt w
  have hhi : w.toInt < (2 : Int) ^ 31 := BitVec.toInt_lt
  rw [q16Out_eq, q16Value, div_mul_cancel₀ _ (by norm_num), roundHalfEven_intCast,
    saturate_of_mem hlo (Int.le_sub_one_of_lt hhi)]

theorem q16Out_of_ge {x : REAL} (h : 2147483647 / 65536 ≤ x) : q16Out x = 2147483647 / 65536 := by
  rw [q16Out_eq, saturate_of_ge (le_roundHalfEven (by push_cast; linarith))]
  norm_num

theorem q16Out_of_le {x : REAL} (h : x ≤ -32768) : q16Out x = -32768 := by
  rw [q16Out_eq, saturate_of_le (roundHalfEven_le (by push_cast; linarith))]
  norm_num

/-! ### Which register stands on which port -/

theorem State.outPorts_streams_getElem? (cfg : Config) (s : State) (n : U4) :
    (s.outPorts cfg).streams[n.toNat]? = s.streamsOf cfg n :=
  List.getElem?_map

/-- After a STEP a run shows the streams of the generator it names (R271, D41). -/
theorem State.observe_streams_of_step {s : State} {n : U4} (hc : s.inp.isCommand = true)
    (hd : decode s.inp.cmd = .ok (.step n)) : s.observe.streams = s.streamsOf Config.chip n := by
  rw [State.observe, InPorts.stepped_of_step hc hd]
  rfl

/-- Nothing else steps a generator, so nothing else shows streams. -/
theorem InPorts.stepped_eq_none {p : InPorts} (h : p.isCommand = false ∨ ∀ n : U4, decode p.cmd ≠ .ok (.step n)) :
    p.stepped = none := by
  rw [Option.eq_none_iff_forall_ne_some]
  intro n hn
  obtain ⟨hc, hd⟩ := InPorts.stepped_eq_some hn
  rcases h with h | h
  · rw [hc] at h
    cases h
  · exact h n hd

theorem State.observe_streams_of_no_step {s : State}
    (h : s.inp.isCommand = false ∨ ∀ n : U4, decode s.inp.cmd ≠ .ok (.step n)) : s.observe.streams = none := by
  rw [State.observe, InPorts.stepped_eq_none h]
  rfl

/-- Settles O60: each port is a function of its register, and the default format is rounding half to even, then
saturation. -/
theorem outputPortsCarryRegistersInPortFormat : Obligations.OutputPortsCarryRegistersInPortFormat := by
  refine ⟨fun s => ⟨rfl, rfl, rfl, rfl, fun n g hg => ?_, fun n hn => ?_, fun n => State.observe_streams_of_step,
    State.observe_streams_of_no_step⟩, q16Out_nearest, q16Out_q16Value, fun _ => q16Out_of_ge, fun _ => q16Out_of_le⟩
  · have hstreams : s.streamsOf Config.chip n = some (g.streams Config.chip) := State.streamsOf_eq_some hg
    exact ⟨_, hstreams, (s.outPorts_streams_getElem? _ n).trans hstreams, rfl, rfl, rfl, rfl, rfl⟩
  · have hstreams : s.streamsOf Config.chip n = none := State.streamsOf_eq_none (List.getElem?_eq_none_iff.mpr hn)
    exact ⟨hstreams, (s.outPorts_streams_getElem? _ n).trans hstreams⟩

end Sys2Proof.Machine
end

section
/-! The statements of spec/30_encoding.md: decode and encode are inverse to each other (R81 to R83), the masks of the opcode
map are the zero fields of its rows (R83), and a word is accepted exactly when it selects a well-formed command (R86). -/

namespace Sys2Proof

/-! ### Decoding, by the fields of the word -/

/-- The other half of `decode_ok_cases`: a word with the fields of a row selects that row (R83). -/
theorem decode_ok_iff {w : U32} {i : Instr} : decode w = .ok i ↔
    ((opField w).toNat = 0 ∧ instField w = 0 ∧ idxField w = 0 ∧ immField w = 0 ∧ i = .nop) ∨
    ((opField w).toNat = 1 ∧ idxField w = 0 ∧ immField w = 0 ∧ i = .step (instField w)) ∨
    ((opField w).toNat = 2 ∧ (idxField w).toNat < 16 ∧ i = .wrparam (instField w) (idxField w) (immField w)) ∨
    ((opField w).toNat = 3 ∧ (idxField w).toNat < 16 ∧ immField w = 0 ∧ i = .rdparam (instField w) (idxField w)) ∨
    ((opField w).toNat = 4 ∧ idxField w = 0 ∧ immField w = 0 ∧ i = .rdhex (instField w)) := by
  refine ⟨decode_ok_cases, ?_⟩
  rintro (⟨hop, hinst, hidx, himm, rfl⟩ | ⟨hop, hidx, himm, rfl⟩ | ⟨hop, hidx, rfl⟩ | ⟨hop, hidx, himm, rfl⟩ |
    ⟨hop, hidx, himm, rfl⟩)
  · simp [decode, hop, hinst, hidx, himm]
  · simp [decode, hop, hidx, himm]
  · simp [decode, hop, hidx]
  · simp [decode, hop, hidx, himm]
  · simp [decode, hop, hidx, himm]

/-- What a word decodes to has `P`, said of the five rows. -/
theorem exists_decode_iff {w : U32} {P : Instr → Prop} : (∃ i, decode w = .ok i ∧ P i) ↔
    ((opField w).toNat = 0 ∧ instField w = 0 ∧ idxField w = 0 ∧ immField w = 0 ∧ P .nop) ∨
    ((opField w).toNat = 1 ∧ idxField w = 0 ∧ immField w = 0 ∧ P (.step (instField w))) ∨
    ((opField w).toNat = 2 ∧ (idxField w).toNat < 16 ∧ P (.wrparam (instField w) (idxField w) (immField w))) ∨
    ((opField w).toNat = 3 ∧ (idxField w).toNat < 16 ∧ immField w = 0 ∧ P (.rdparam (instField w) (idxField w))) ∨
    ((opField w).toNat = 4 ∧ idxField w = 0 ∧ immField w = 0 ∧ P (.rdhex (instField w))) := by
  simp only [decode_ok_iff, or_and_right, exists_or, and_assoc, exists_and_left, exists_eq_left]

/-- The opcodes 0x5 to 0xF select nothing (R86). -/
theorem opField_le_of_decode {w : U32} {i : Instr} (h : decode w = .ok i) : (opField w).toNat ≤ 4 := by
  rcases decode_ok_cases h with ⟨hop, -⟩ | ⟨hop, -⟩ | ⟨hop, -⟩ | ⟨hop, -⟩ | ⟨hop, -⟩ <;> omega

/-! ### Decode and encode -/

theorem commandWord_eq_iff {op inst : U4} {idx : U8} {imm : S16} {w : U32} :
    commandWord op inst idx imm = w ↔ opField w = op ∧ instField w = inst ∧ idxField w = idx ∧ immField w = imm := by
  constructor
  · rintro rfl
    exact ⟨opField_commandWord .., instField_commandWord .., idxField_commandWord .., immField_commandWord ..⟩
  · rintro ⟨rfl, rfl, rfl, rfl⟩
    exact commandWord_fields w

/-- The operations that have a word are the five host commands (R80, R83). -/
theorem encode_isSome_iff {i : Instr} :
    (encode i).isSome = true ↔ i.mnemonic ∈ ["NOP", "STEP", "WRPARAM", "RDPARAM", "RDHEX"] := by
  cases i <;> simp [encode, Instr.mnemonic]

/-- The index field has 8 bits, and R83 admits the values below 16 only; nothing else is lost. -/
theorem decode_of_encode {i : Instr} {w : U32} (h : encode i = some w) (hidx : ∀ k, i.idx? = some k → k.toNat < 16) :
    decode w = .ok i := by
  rw [decode_ok_iff]
  cases i with
  | nop | step n | rdhex n =>
    obtain ⟨hop, hinst, hi, himm⟩ := commandWord_eq_iff.mp (Option.some.inj h)
    simp [hop, hinst, hi, himm]
  | wrparam n idx imm | rdparam n idx =>
    obtain ⟨hop, hinst, hi, himm⟩ := commandWord_eq_iff.mp (Option.some.inj h)
    simp [hop, hinst, hi, himm, hidx idx rfl]
  | _ => cases h

/-- Settles O1: a well-formed index is at most 11, so it is among those that decode admits. -/
theorem decodeEncodeRoundTrip : Obligations.DecodeEncodeRoundTrip := by
  intro nInst i hwf
  obtain ⟨-, hidx⟩ := (Laws.operandsChecked_all i nInst).mp hwf
  refine ⟨encode_isSome_iff.mpr, fun w hw => decode_of_encode hw fun k hk => ?_⟩
  have := hidx k hk
  omega

/-- Settles O2: in each row the opcode and the fields that must be zero are those that encode writes. -/
theorem decodedWordReencodes : Obligations.DecodedWordReencodes := by
  intro w i h
  rcases decode_ok_cases h with ⟨hop, hinst, hidx, himm, rfl⟩ | ⟨hop, hidx, himm, rfl⟩ | ⟨hop, -, rfl⟩ |
    ⟨hop, -, himm, rfl⟩ | ⟨hop, hidx, himm, rfl⟩
  all_goals refine congrArg some (commandWord_eq_iff.mpr ⟨BitVec.eq_of_toNat_eq hop, ?_⟩)
  · exact ⟨hinst, hidx, himm⟩
  · exact ⟨rfl, hidx, himm⟩
  · exact ⟨rfl, rfl, rfl⟩
  · exact ⟨rfl, rfl, himm⟩
  · exact ⟨rfl, hidx, himm⟩

/-- Settles O4: each word is the word of its instruction, with an index below 16. -/
theorem specWordsDecode : Obligations.SpecWordsDecode :=
  ⟨decode_of_encode rfl nofun, decode_of_encode rfl nofun, decode_of_encode rfl (by rintro _ ⟨⟩; decide),
    decode_of_encode rfl (by rintro _ ⟨⟩; decide), decode_of_encode rfl (by rintro _ ⟨⟩; decide),
    decode_of_encode rfl nofun, decode_of_encode rfl nofun⟩

/-! ### The masks of the opcode map -/

theorem commandWord_and (op op' inst inst' : U4) (idx idx' : U8) (imm imm' : S16) :
    commandWord op inst idx imm &&& commandWord op' inst' idx' imm' =
      commandWord (op &&& op') (inst &&& inst') (idx &&& idx') (imm &&& imm') := by
  change (op ++ inst ++ idx ++ imm : BitVec (4 + 4 + 8 + 16)) &&& (op' ++ inst' ++ idx' ++ imm') = _
  rw [BitVec.and_append, BitVec.and_append, BitVec.and_append]
  rfl

/-- A mask compares the fields of the word one by one. -/
theorem and_commandWord_eq_iff {w : U32} {op op' inst inst' : U4} {idx idx' : U8} {imm imm' : S16} :
    w &&& commandWord op inst idx imm = commandWord op' inst' idx' imm' ↔
      opField w &&& op = op' ∧ instField w &&& inst = inst' ∧ idxField w &&& idx = idx' ∧ immField w &&& imm = imm' := by
  conv_lhs => rw [← commandWord_fields w]
  rw [commandWord_and, eq_comm, commandWord_eq_iff, opField_commandWord, instField_commandWord, idxField_commandWord,
    immField_commandWord]

/-- The mask 0xF0 looks at idx[7:4] (R83). -/
theorem and_F0_eq_zero_iff (idx : U8) : idx &&& 0xF0 = 0 ↔ idx.toNat < 16 := by
  revert idx
  decide

/-- Every row of R83 compares the whole opcode and asks of each other field that its masked bits are 0. -/
theorem selectsRow_iff {w : U32} {op inst : U4} {idx : U8} {imm : S16} :
    w &&& commandWord (.allOnes 4) inst idx imm = commandWord op 0 0 0 ↔
      (opField w).toNat = op.toNat ∧ instField w &&& inst = 0 ∧ idxField w &&& idx = 0 ∧ immField w &&& imm = 0 := by
  rw [and_commandWord_eq_iff, BitVec.and_allOnes, BitVec.toNat_inj]

/-- Settles O3: a mask of zeros leaves its field open, a mask of ones compares it with 0, and the mask 0xF0 of the index
field says that it is below 16. -/
theorem decodeFollowsOpcodeMap : Obligations.DecodeFollowsOpcodeMap := by
  refine ⟨fun w => ?_, fun w hw => ?_⟩
  · simp only [opcodeRows, List.forall_mem_cons, exists_decode_iff, Instr.mnemonic]
    refine ⟨?_, ?_, ?_, ?_, ?_, by simp⟩
    · refine (selectsRow_iff (op := 0) (inst := .allOnes 4) (idx := .allOnes 8) (imm := .allOnes 16)).trans ?_
      rw [BitVec.and_allOnes, BitVec.and_allOnes, BitVec.and_allOnes]
      simp
    · refine (selectsRow_iff (op := 1) (inst := 0) (idx := .allOnes 8) (imm := .allOnes 16)).trans ?_
      rw [BitVec.and_allOnes, BitVec.and_allOnes]
      simp
    · refine (selectsRow_iff (op := 2) (inst := 0) (idx := 0xF0) (imm := 0)).trans ?_
      rw [and_F0_eq_zero_iff]
      simp
    · refine (selectsRow_iff (op := 3) (inst := 0) (idx := 0xF0) (imm := .allOnes 16)).trans ?_
      rw [and_F0_eq_zero_iff, BitVec.and_allOnes]
      simp
    · refine (selectsRow_iff (op := 4) (inst := 0) (idx := .allOnes 8) (imm := .allOnes 16)).trans ?_
      rw [BitVec.and_allOnes, BitVec.and_allOnes]
      simp
  · cases hd : decode w with
    | error e => exact ⟨e, rfl⟩
    | ok i =>
      have hop := opField_le_of_decode hd
      rw [opField_toNat] at hop
      omega

end Sys2Proof

namespace Sys2Proof.Machine

open Sys2Proof.Spec

/-! ### Acceptance -/

/-- R86 on the number of the word is R86 on what it decodes to: an accepted word selects a command whose generator and
index exist. -/
theorem not_notAcceptedWord_iff {nInst : Nat} {w : U32} :
    ¬ notAcceptedWord nInst w ↔ ∃ i, decode w = .ok i ∧ i.wellFormed nInst = true := by
  have hop : (opField w).toNat = 0 ∨ (opField w).toNat = 1 ∨ (opField w).toNat = 2 ∨ (opField w).toNat = 3 ∨
      (opField w).toNat = 4 ∨ 5 ≤ (opField w).toNat := by omega
  simp only [exists_decode_iff, Instr.wellFormed, Instr.instOk, Instr.idxOk, Instr.inst?, Instr.idx?, Bool.and_eq_true,
    decide_eq_true_eq, BitVec.toNat_eq, notAcceptedWord, ← opField_toNat, ← instField_toNat, ← idxField_toNat,
    ← immField_toNat]
  rcases hop with hop | hop | hop | hop | hop | hop
  all_goals grind

/-! ### Which operands exist -/

theorem State.inst?_eq_none_iff {s : State} {n : U4} : s.inst? n = none ↔ s.insts.length ≤ n.toNat :=
  ⟨State.inst?_eq_none, List.getElem?_eq_none⟩

theorem State.exists_inst? {s : State} {n : U4} (h : n.toNat < s.insts.length) : ∃ g, s.inst? n = some g :=
  ⟨_, List.getElem?_eq_getElem h⟩

theorem writeParam_of_lt {g : GenInst} {idx : U8} {v : S16} (h : idx.toNat < 12) :
    g.writeParam idx v = some { g with params := g.params.set idx.toNat v h } :=
  dif_pos h

theorem writeParam_of_ge {g : GenInst} {idx : U8} {v : S16} (h : 12 ≤ idx.toNat) : g.writeParam idx v = none :=
  dif_neg h.not_gt

theorem readParam_of_lt {g : GenInst} {idx : U8} (h : idx.toNat < 12) : g.readParam idx = some g.params[idx.toNat] :=
  Vector.getElem?_eq_getElem h

theorem readParam_of_ge {g : GenInst} {idx : U8} (h : 12 ≤ idx.toNat) : g.readParam idx = none :=
  Vector.getElem?_eq_none h

/-! ### A command that is not accepted -/

/-- A host command of a generator that the block does not have is not accepted (R86, R115). -/
theorem exec_of_absent {i : Instr} {s : State} {n : U4} (hi : (encode i).isSome = true) (hn : i.inst? = some n)
    (hs : s.inst? n = none) : exec i s = .next s.notAccepted := by
  cases i with
  | nop => cases hn
  | step m =>
    cases hn
    exact stepCommand_of_absent hs
  | wrparam m idx imm =>
    cases hn
    simp [exec, execWrparam, writeParamOp, hs]
  | rdparam m idx =>
    cases hn
    simp [exec, execRdparam, hs]
  | rdhex m =>
    cases hn
    simp [exec, execRdhex, hs]
  | _ => cases hi

/-- A host command with an index above 11 is not accepted, whatever its generator (R86, R115). -/
theorem exec_of_index_ge {i : Instr} {s : State} {k : U8} (hi : (encode i).isSome = true) (hk : i.idx? = some k)
    (hge : 12 ≤ k.toNat) : exec i s = .next s.notAccepted := by
  cases i with
  | wrparam m idx imm =>
    cases hk
    cases hs : s.inst? m with
    | none => exact exec_of_absent hi rfl hs
    | some g => simp [exec, execWrparam, writeParamOp, hs, writeParam_of_ge hge]
  | rdparam m idx =>
    cases hk
    cases hs : s.inst? m with
    | none => exact exec_of_absent hi rfl hs
    | some g => simp [exec, execRdparam, hs, readParam_of_ge hge]
  | nop | step | rdhex => cases hk
  | _ => cases hi

/-- R115 for the whole state: CMD_ERR is set and nothing else moves. -/
theorem exec_of_not_wellFormed {i : Instr} {s : State} (hi : (encode i).isSome = true)
    (hwf : ¬ i.wellFormed s.insts.length = true) : exec i s = .next s.notAccepted := by
  rw [Laws.operandsChecked_all i, not_and_or] at hwf
  push Not at hwf
  rcases hwf with ⟨n, hn, hge⟩ | ⟨k, hk, hgt⟩
  · exact exec_of_absent hi hn (State.inst?_eq_none_iff.mpr hge)
  · exact exec_of_index_ge hi hk hgt

/-! ### A command that is accepted -/

theorem clockPhase_isSome {cfg : Config} {p : InPorts} {r : Reach} (hc : r.inst.cursor.toNat < 64) :
    (clockPhase cfg p r).isSome = true := by
  unfold clockPhase
  split
  · rw [Option.isSome_map]
    exact drawOp_isSome (by rwa [edgeOp_cursor])
  · rfl

/-- A host command whose generator and index exist completes and clears CMD_ERR (R86); only STEP asks for the cursor, which
a draw reads at (log 10). -/
theorem exec_of_wellFormed {i : Instr} {s : State} (hi : (encode i).isSome = true)
    (hwf : i.wellFormed s.insts.length = true) (hcursor : ∀ g ∈ s.insts, g.cursor.toNat < 64) :
    ∃ t, exec i s = .next t ∧ t.cmdErr = false := by
  obtain ⟨hinst, hidx⟩ := (Laws.operandsChecked_all i _).mp hwf
  cases i with
  | nop => exact ⟨s.accepted, rfl, rfl⟩
  | step n =>
    obtain ⟨g, hg⟩ := State.exists_inst? (hinst n rfl)
    obtain ⟨r, hr⟩ := Option.isSome_iff_exists.mp
      (clockPhase_isSome (cfg := Config.chip) (p := s.inp) (r := ⟨s.shared, g⟩) (hcursor g (State.inst?_eq_some hg).2))
    exact ⟨_, stepCommand_of_inst hg hr, rfl⟩
  | wrparam n idx imm =>
    obtain ⟨g, hg⟩ := State.exists_inst? (hinst n rfl)
    have hlt : idx.toNat < 12 := Nat.lt_succ_of_le (hidx idx rfl)
    simp [exec, execWrparam, writeParamOp, hg, writeParam_of_lt hlt]
  | rdparam n idx =>
    obtain ⟨g, hg⟩ := State.exists_inst? (hinst n rfl)
    have hlt : idx.toNat < 12 := Nat.lt_succ_of_le (hidx idx rfl)
    simp [exec, execRdparam, hg, readParam_of_lt hlt]
  | rdhex n =>
    obtain ⟨g, hg⟩ := State.exists_inst? (hinst n rfl)
    simp [exec, execRdhex, hg]
  | _ => cases hi

theorem encode_isSome_of_decode {w : U32} {i : Instr} (h : decode w = .ok i) : (encode i).isSome = true :=
  Option.isSome_of_eq_some (decodedWordReencodes w i h)

/-- Settles O6: a word is refused by the decoder, or by its command for an operand that does not exist; otherwise the
command completes. -/
theorem unacceptedWordSetsOnlyCmdErr : Obligations.UnacceptedWordSetsOnlyCmdErr := by
  intro s p rest hh hr hv
  constructor
  · intro hna
    cases hd : decode p.cmd with
    | error e => exact step_of_fetch_settled (fetch_undecodable hh hr hv hd)
    | ok i =>
      have hwf : ¬ i.wellFormed s.insts.length = true := fun hwf => not_notAcceptedWord_iff.mpr ⟨i, hd, hwf⟩ hna
      rw [step_of_fetch_run (fetch_run hh hr hv hd)]
      exact exec_of_not_wellFormed (encode_isSome_of_decode hd) hwf
  · intro ha hcursor
    obtain ⟨i, hd, hwf⟩ := not_notAcceptedWord_iff.mp ha
    rw [step_of_fetch_run (fetch_run hh hr hv hd)]
    exact exec_of_wellFormed (encode_isSome_of_decode hd) hwf hcursor

end Sys2Proof.Machine
end

section
/-! The host commands NOP, WRPARAM, RDPARAM and RDHEX (spec/40_host_commands.md R110 to R116): each accepted command as one
equation on the whole state, the refusals from the rules for a command that is not accepted. -/

namespace Sys2Proof.Machine

/-! ### What an accepted command leaves -/

theorem exec_wrparam_of_lt {n : U4} {idx : U8} {imm : S16} {s : State} {g : GenInst} (hg : s.inst? n = some g)
    (hidx : idx.toNat < 12) : exec (.wrparam n idx imm) s =
      .next (s.putInst n { g with params := g.params.set idx.toNat imm hidx }).accepted := by
  simp [exec, execWrparam, writeParamOp, hg, writeParam_of_lt hidx]

theorem exec_rdparam_of_lt {n : U4} {idx : U8} {s : State} {g : GenInst} (hg : s.inst? n = some g)
    (hidx : idx.toNat < 12) : exec (.rdparam n idx) s = .next { s.accepted with rdData := g.params[idx.toNat] } := by
  simp [exec, execRdparam, hg, readParam_of_lt hidx]

theorem exec_rdhex_of_inst {n : U4} {s : State} {g : GenInst} (hg : s.inst? n = some g) :
    exec (.rdhex n) s = .next { s.accepted with rdData := g.hexval.setWidth 16 } := by
  simp [exec, execRdhex, hg]

/-- R115 for a command that names a generator and an index: either one absent refuses it. -/
theorem exec_of_absent_or_index_ge {i : Instr} {s : State} {n : U4} {k : U8} (hi : (encode i).isSome = true)
    (hn : i.inst? = some n) (hk : i.idx? = some k) (h : s.insts.length ≤ n.toNat ∨ 12 ≤ k.toNat) :
    exec i s = .next s.notAccepted := by
  rcases h with habsent | hge
  · exact exec_of_absent hi hn (State.inst?_eq_none_iff.mpr habsent)
  · exact exec_of_index_ge hi hk hge

/-- Settles O16: NOP is the state with CMD_ERR cleared, by its definition (R110). -/
theorem nopClearsCmdErrOnly : Obligations.NopClearsCmdErrOnly :=
  fun _ => rfl

/-- Settles O17: the accepted write, and the refusal for an operand that does not exist. -/
theorem wrparamStoresOneRegister : Obligations.WrparamStoresOneRegister := by
  intro s n idx imm
  exact ⟨fun g hidx hg => exec_wrparam_of_lt hg hidx, exec_of_absent_or_index_ge rfl rfl rfl⟩

/-- Settles O18: the accepted read, and the refusal for an operand that does not exist. -/
theorem rdparamReadsOneRegister : Obligations.RdparamReadsOneRegister := by
  intro s n idx
  exact ⟨fun g hidx hg => exec_rdparam_of_lt hg hidx, exec_of_absent_or_index_ge rfl rfl rfl⟩

/-! ### A parameter written and read back -/

theorem State.putInst_inst?_self {s : State} {n : U4} {g : GenInst} (h : n.toNat < s.insts.length) :
    (s.putInst n g).inst? n = some g :=
  List.getElem?_set_self h

theorem State.putInst_inst?_of_ne {s : State} {n m : U4} {g : GenInst} (h : m ≠ n) :
    (s.putInst n g).inst? m = s.inst? m :=
  List.getElem?_set_ne fun heq => h (BitVec.eq_of_toNat_eq heq.symm)

/-- Settles O19: a read of another generator finds its record untouched; in the same one, the register is the one set or a
register beside it. -/
theorem writtenParameterIsReadBack : Obligations.WrittenParameterIsReadBack := by
  intro s n m idx k imm hn hm hidx hk
  obtain ⟨g, hg⟩ := State.exists_inst? hn
  obtain ⟨g₀, hg₀⟩ := State.exists_inst? hm
  by_cases hmn : m = n
  · subst hmn
    obtain rfl : g = g₀ := Option.some.inj (hg.symm.trans hg₀)
    refine ⟨_, _, _, exec_wrparam_of_lt hg hidx, exec_rdparam_of_lt (State.putInst_inst?_self hm) hk,
      exec_rdparam_of_lt hg hk, ?_⟩
    simp only [Vector.getElem_set, ← BitVec.toNat_eq, eq_comm (a := idx), true_and]
  · refine ⟨_, _, _, exec_wrparam_of_lt hg hidx, exec_rdparam_of_lt ((State.putInst_inst?_of_ne hmn).trans hg₀) hk,
      exec_rdparam_of_lt hg₀ hk, ?_⟩
    rw [if_neg fun h => hmn h.1]

/-! ### The lines on RD_DATA -/

/-- R28: the sum of the lines' weights is at most 63, so six bits hold it. -/
theorem toNat_hexOf (l : Vector Bool 6) : (hexOf l).toNat =
    l[0].toNat + 2 * l[1].toNat + 4 * l[2].toNat + 8 * l[3].toNat + 16 * l[4].toNat + 32 * l[5].toNat := by
  rw [hexOf, BitVec.toNat_ofNat]
  exact Nat.mod_eq_of_lt (by
    linarith [l[0].toNat_le, l[1].toNat_le, l[2].toNat_le, l[3].toNat_le, l[4].toNat_le, l[5].toNat_le])

/-- Settles O20: HEXVAL widened to 16 bits keeps its value, the sum of the lines. -/
theorem rdhexReadsLines : Obligations.RdhexReadsLines := by
  intro s n
  refine ⟨fun g hg => ⟨_, exec_rdhex_of_inst hg, ?_⟩,
    fun habsent => exec_of_absent rfl rfl (State.inst?_eq_none_iff.mpr habsent)⟩
  rw [BitVec.toNat_setWidth_of_le (by decide), GenInst.hexval, toNat_hexOf]

/-! ### What no host command but STEP writes -/

/-- The effect of a write of parameter registers: the singletons and every other register of the record stay. -/
def WritesParamsOnly (r r' : Reach) : Prop :=
  ∃ v : Vector S16 12, r' = { r with inst := { r.inst with params := v } }

theorem ChangesOneInstance.length_insts {s t : State} {eff : Reach → Reach → Prop} (h : ChangesOneInstance s t eff) :
    t.insts.length = s.insts.length := by
  obtain ⟨n, g, r, -, -, -, hinsts⟩ := h
  rw [hinsts, List.length_set]

/-- All that the four commands can do to the singletons and the records (R116). -/
theorem hostCommand_effect {i : Instr} {s t : State} (hi : i.mnemonic ∈ ["NOP", "WRPARAM", "RDPARAM", "RDHEX"])
    (h : exec i s = .next t) :
    (t.insts = s.insts ∧ t.shared = s.shared) ∨ ChangesOneInstance s t WritesParamsOnly := by
  cases i with
  | nop =>
    cases h
    exact .inl ⟨rfl, rfl⟩
  | wrparam n idx imm =>
    rcases execWrparam_next h with rfl | ⟨g, g', hg, hw, rfl⟩
    · exact .inl ⟨rfl, rfl⟩
    · obtain ⟨hidx, rfl⟩ := writeParam_eq_some hw
      exact .inr ⟨n, g, ⟨s.shared, _⟩, hg, ⟨_, rfl⟩, rfl, rfl⟩
  | rdparam n idx => exact .inl (execRdparam_frame h)
  | rdhex n => exact .inl (execRdhex_frame h)
  | _ => simp [Instr.mnemonic] at hi

/-- Settles O21: a command that leaves the records keeps all, and one that writes a record writes its parameters only. -/
theorem hostCommandsKeepGeneratorState : Obligations.HostCommandsKeepGeneratorState := by
  intro i s t hi h
  rcases hostCommand_effect hi h with ⟨hinsts, hshared⟩ | heff
  · refine ⟨hshared, by rw [hinsts], fun k g g' hg hg' => ?_⟩
    rw [hinsts, hg] at hg'
    cases hg'
    rfl
  · refine ⟨?_, heff.length_insts, fun k g g' hg hg' => ?_⟩
    · obtain ⟨n, g, r, -, ⟨v, rfl⟩, hshared, -⟩ := heff
      exact hshared
    · rcases heff.getElem? hg hg' with rfl | ⟨r, ⟨v, rfl⟩, rfl⟩
      · rfl
      · rfl

end Sys2Proof.Machine
end

section
/-! The hexagram scheduler (spec/41_hexagram_scheduler.md R120 to R128): RAND, SHUFFLE, DRAW and HEXCV as equations on the
whole state, the epochs of consecutive draws, and what a STEP does to the scheduler (R217). -/

namespace Sys2Proof.Machine

open Sys2Proof.Spec

/-! ### RAND and HEXCV -/

/-- An internal operation without an undefined case completes for an existing generator (log 18). -/
theorem runOn_total_of_inst {n : U4} {s : State} {g : GenInst} {f : Reach → Reach} {ret : Reach → Ret}
    (hg : s.inst? n = some g) : runOn n s (fun r => some (f r, ret r)) =
      .next ((s.putReach n (f ⟨s.shared, g⟩)).withRet (ret ⟨s.shared, g⟩)) :=
  runOn_of_inst hg rfl

/-- Settles O23: RNG_OUT answers a word of 32 bits, and the rest is RAND by its definition (R120). -/
theorem randAdvancesGenerator : Obligations.RandAdvancesGenerator :=
  fun _ => ⟨_, (Config.chip.rngOut _).isLt, rfl, rfl⟩

/-- Settles O29: HEXCV completes for an existing generator, and HEXVAL is the sum of the lines (R28). -/
theorem hexcvWritesRawValue : Obligations.HexcvWritesRawValue := by
  intro s n g hg
  refine ⟨g.hexval, toNat_hexOf g.lines, ?_⟩
  rw [exec_hexcv, runOn_total_of_inst hg]
  rfl

/-! ### SHUFFLE -/

/-- SHUFFLE of one array under any configuration, as the 63 RAND calls and exchanges of R122. -/
theorem shuffleOrder_eq (cfg : Config) (rng : U32) (o : Vector U6 64) :
    shuffleOrder cfg rng o = (randState cfg 63 rng,
      (List.range 63).foldl (fun a c => swapped a (63 - c) (randValue cfg c rng % (64 - c))) o) :=
  Prod.ext (shuffleOrder_rng cfg rng o) (shuffleFrom_eq_foldl cfg (by decide) rng o)

/-- R123 (a) for the shuffle written out. -/
theorem fisherYates_perm (rng : U32) (o : Vector U6 64) : (fisherYates rng o).toList.Perm o.toList := by
  have h := shuffleOrder_perm Config.chip rng o
  rwa [shuffleOrder_chip] at h

theorem shuffleOp_chip (r : Reach) : shuffleOp Config.chip r =
    { shared := { r.shared with rng := advance 63 r.shared.rng }
      inst := { r.inst with order := fisherYates r.shared.rng r.inst.order } } := by
  rw [shuffleOp, shuffleOrder_chip]

/-- Settles O24: SHUFFLE writes back the two results of the shuffle of ORDER. -/
theorem shuffleIsFisherYates : Obligations.ShuffleIsFisherYates := by
  intro cfg r
  rw [shuffleOp, shuffleOrder_eq]

/-- Settles O25: SHUFFLE completes for an existing generator, and each exchange keeps the entries. -/
theorem shuffleKeepsEntries : Obligations.ShuffleKeepsEntries := by
  intro s n g hg
  refine ⟨?_, fisherYates_perm _ _⟩
  rw [exec_shuffle, runOn_total_of_inst hg, shuffleOp_chip]
  rfl

/-! ### One draw -/

theorem getElem_linesOf (h : U6) {b : Nat} (hb : b < 6) : (linesOf h)[b] = h.getLsbD b := by
  rw [linesOf, Vector.getElem_ofFn]

/-- A draw from a cursor below 63 stays in its epoch (R124). -/
theorem drawOp_of_lt {cfg : Config} {r : Reach} (hc : r.inst.cursor.toNat < 63) :
    drawOp cfg r = some { r with inst := { r.inst with
      lines := linesOf r.inst.order[r.inst.cursor.toNat], cursor := r.inst.cursor + 1 } } := by
  obtain ⟨d, hd⟩ := Option.isSome_iff_exists.mp (drawOp_isSome (cfg := cfg) (r := r) (by omega))
  obtain ⟨_, ⟨-, rfl⟩ | ⟨hlast, -⟩⟩ := drawOp_cases hd
  · exact hd
  · omega

/-- A draw from cursor 63 ends its epoch: SHUFFLE runs and the cursor returns to 0 (R124). -/
theorem drawOp_of_last {cfg : Config} {r : Reach} (hc : r.inst.cursor.toNat = 63) :
    drawOp cfg r = some
      { shared := (shuffleOp cfg r).shared
        inst := { r.inst with
          order := (shuffleOp cfg r).inst.order
          lines := linesOf r.inst.order[r.inst.cursor.toNat]
          cursor := 0 } } := by
  obtain ⟨d, hd⟩ := Option.isSome_iff_exists.mp (drawOp_isSome (cfg := cfg) (r := r) (by omega))
  obtain ⟨_, ⟨hlt, -⟩ | ⟨-, rfl⟩⟩ := drawOp_cases hd
  · omega
  · exact hd

/-- Settles O26: at cursor 63 the raised cursor is 64 and the epoch ends, below it the cursor stays raised. -/
theorem drawTakesNextEntry : Obligations.DrawTakesNextEntry := by
  intro cfg r hc
  have hraise : (r.inst.cursor + 1).toNat = r.inst.cursor.toNat + 1 := toNat_add_one (by omega)
  refine ⟨_, _, fun _ => getElem_linesOf _, hraise, ?_⟩
  by_cases hlast : r.inst.cursor.toNat = 63
  · rw [if_pos (by omega)]
    exact drawOp_of_last hlast
  · rw [if_neg (by omega)]
    exact drawOp_of_lt (by omega)

/-- DRAW on its own completes with the effect of a draw that is defined (log 18). -/
theorem exec_draw_of_inst {n : U4} {s : State} {g : GenInst} {d : Reach} (hg : s.inst? n = some g)
    (hd : drawOp Config.chip ⟨s.shared, g⟩ = some d) :
    exec (.draw n) s = .next ((s.putReach n d).withRet .none) := by
  rw [exec_draw]
  exact runOn_of_inst hg (by rw [hd, Option.map_some])

/-- What a draw makes of the scheduler, both cases in one: the entry read is on the lines, the cursor moves on modulo 64,
and ORDER and RNG move exactly at the end of an epoch (R124). -/
theorem drawOp_scheduler {r d : Reach} (hd : drawOp Config.chip r = some d) (hc : r.inst.cursor.toNat < 64) :
    d.inst.hexval = r.inst.order[r.inst.cursor.toNat] ∧
    d.inst.cursor.toNat = (r.inst.cursor.toNat + 1) % 64 ∧
    d.inst.order =
      (if r.inst.cursor.toNat = 63 then fisherYates r.shared.rng r.inst.order else r.inst.order) ∧
    d.shared.rng = (if r.inst.cursor.toNat = 63 then advance 63 r.shared.rng else r.shared.rng) := by
  by_cases hlast : r.inst.cursor.toNat = 63
  · rw [drawOp_of_last hlast, shuffleOp_chip] at hd
    cases hd
    simp [GenInst.hexval, hexOf_linesOf, hlast]
  · rw [drawOp_of_lt (by omega)] at hd
    cases hd
    have hraise : (r.inst.cursor + 1).toNat = (r.inst.cursor.toNat + 1) % 64 := by
      rw [toNat_add_one (by omega), Nat.mod_eq_of_lt (by omega)]
    simp only [GenInst.hexval, hexOf_linesOf, hlast, if_false, hraise, and_self]

/-! ### Consecutive draws -/

theorem drawMany_succ_eq_some_iff {n : U4} {k : Nat} {s t : State} {hs : List U6} :
    drawMany n (k + 1) s = some (hs, t) ↔
      ∃ u g hs', exec (.draw n) s = .next u ∧ u.inst? n = some g ∧ drawMany n k u = some (hs', t) ∧
        hs = g.hexval :: hs' := by
  rw [drawMany]
  cases exec (.draw n) s with
  | fault | refused => simp
  | next u =>
    simp only [State.inst?]
    cases hu : u.insts[n.toNat]? with
    | none => simp [hu]
    | some g =>
      cases hk : drawMany n k u with
      | none => simp [hu, hk]
      | some r =>
        obtain ⟨hs', t'⟩ := r
        simp [hu, hk, eq_comm, and_comm]

/-- One more draw after `k` draws puts its hexagram at the end. -/
theorem drawMany_snoc {n : U4} {k : Nat} {s t u : State} {g : GenInst} {hs : List U6}
    (hk : drawMany n k s = some (hs, t)) (hd : exec (.draw n) t = .next u) (hg : u.inst? n = some g) :
    drawMany n (k + 1) s = some (hs ++ [g.hexval], u) := by
  induction k generalizing s hs with
  | zero =>
    cases hk
    exact drawMany_succ_eq_some_iff.mpr ⟨u, g, [], hd, hg, rfl, rfl⟩
  | succ k ih =>
    obtain ⟨v, g₀, hs', hv, hg₀, hk', rfl⟩ := drawMany_succ_eq_some_iff.mp hk
    exact drawMany_succ_eq_some_iff.mpr ⟨v, g₀, _, hv, hg₀, ih hk', rfl⟩

/-- The hexagram that draw number `i` shows, counted from 0 at the start of an epoch with the generator's state `rng` and
ORDER `o` (R125). -/
def scheduled (rng : U32) (o : Vector U6 64) (i : Nat) : U6 :=
  (orderAfter rng o (i / 64))[i % 64]'(Nat.mod_lt i (by decide))

/-- What `k` draws from the start of an epoch with the generator's state `rng` and ORDER `o` make of the scheduler (R125). -/
structure AfterDraws (rng : U32) (o : Vector U6 64) (k : Nat) (r : Reach) : Prop where
  cursor_eq : r.inst.cursor.toNat = k % 64
  order_eq : r.inst.order = orderAfter rng o (k / 64)
  rng_eq : r.shared.rng = advance (63 * (k / 64)) rng

theorem AfterDraws.cursor_lt {rng : U32} {o : Vector U6 64} {k : Nat} {r : Reach} (h : AfterDraws rng o k r) :
    r.inst.cursor.toNat < 64 :=
  h.cursor_eq ▸ Nat.mod_lt k (by decide)

/-- The next draw shows the scheduled hexagram; when it is the last of its epoch, the shuffles become one more. -/
theorem AfterDraws.draw {rng : U32} {o : Vector U6 64} {k : Nat} {r d : Reach} (h : AfterDraws rng o k r)
    (hd : drawOp Config.chip r = some d) :
    AfterDraws rng o (k + 1) d ∧ d.inst.hexval = scheduled rng o k := by
  obtain ⟨hhex, hcursor, horder, hrng⟩ := drawOp_scheduler hd h.cursor_lt
  rw [h.cursor_eq, h.order_eq, h.rng_eq] at horder
  rw [h.cursor_eq, h.rng_eq] at hrng
  refine ⟨⟨by rw [hcursor, h.cursor_eq, Nat.mod_add_mod], ?_, ?_⟩, ?_⟩
  · by_cases hlast : k % 64 = 63
    · rw [horder, if_pos hlast, show (k + 1) / 64 = k / 64 + 1 by omega, orderAfter]
    · rw [horder, if_neg hlast, show (k + 1) / 64 = k / 64 by omega]
  · by_cases hlast : k % 64 = 63
    · rw [hrng, if_pos hlast, show (k + 1) / 64 = k / 64 + 1 by omega, Nat.mul_succ, Nat.add_comm, advance_add]
    · rw [hrng, if_neg hlast, show (k + 1) / 64 = k / 64 by omega]
  · simp only [hhex, scheduled, h.cursor_eq, h.order_eq]

/-- R125: `k` draws from the start of an epoch complete, and show the scheduled hexagrams. -/
theorem drawMany_of_epoch_start {n : U4} {s : State} {g : GenInst} (hg : s.inst? n = some g) (hc : g.cursor = 0)
    (k : Nat) :
    ∃ t g', drawMany n k s = some ((List.range k).map (scheduled s.shared.rng g.order), t) ∧ t.inst? n = some g' ∧
      AfterDraws s.shared.rng g.order k ⟨t.shared, g'⟩ := by
  induction k with
  | zero => exact ⟨s, g, rfl, hg, by simp [hc], rfl, rfl⟩
  | succ k ih =>
    obtain ⟨t, g', hk, hg', hafter⟩ := ih
    obtain ⟨d, hd⟩ := Option.isSome_iff_exists.mp (drawOp_isSome (cfg := Config.chip) hafter.cursor_lt)
    obtain ⟨hafter', hhex⟩ := hafter.draw hd
    have hd' : ((t.putReach n d).withRet .none).inst? n = some d.inst :=
      List.getElem?_set_self (State.inst?_eq_some hg').1
    refine ⟨_, d.inst, ?_, hd', hafter'⟩
    rw [drawMany_snoc hk (exec_draw_of_inst hg' hd) hd', hhex, List.range_succ, List.map_append]
    rfl

/-- The scheduled hexagrams of one epoch are the entries of ORDER in order. -/
theorem map_scheduled_epoch (rng : U32) (o : Vector U6 64) : (List.range 64).map (scheduled rng o) = o.toList := by
  refine List.ext_getElem (by simp) fun i hi _ => ?_
  rw [List.length_map, List.length_range] at hi
  simp only [List.getElem_map, List.getElem_range, Vector.getElem_toList, scheduled, Nat.div_eq_of_lt hi,
    Nat.mod_eq_of_lt hi, orderAfter]

theorem identityOrder_toList : identityOrder.toList = allHexagrams := by
  refine List.ext_getElem (by simp [allHexagrams]) fun i _ _ => ?_
  simp only [identityOrder, allHexagrams, Vector.getElem_toList, Vector.getElem_ofFn, List.getElem_map,
    List.getElem_range]

/-- Settles O27: the draws show the scheduled hexagrams of one epoch, and the shuffle at its end only rearranges ORDER. -/
theorem epochDrawsEachHexagramOnce : Obligations.EpochDrawsEachHexagramOnce := by
  intro s n g hg hperm hc
  obtain ⟨t, g', hk, hg', hafter⟩ := drawMany_of_epoch_start hg hc 64
  refine ⟨_, t, g', hk, map_scheduled_epoch _ _, ?_, hg', ?_, BitVec.eq_of_toNat_eq hafter.cursor_eq⟩
  · rw [map_scheduled_epoch, ← identityOrder_toList]
    exact hperm
  · have horder : g'.order = fisherYates s.shared.rng g.order := hafter.order_eq
    rw [orderIsPermutation, horder]
    exact (fisherYates_perm _ _).trans hperm

/-- Settles O28: the two cases of one draw, and `k` draws from the start of an epoch by induction on `k`. -/
theorem reshuffleEverySixtyFourDraws : Obligations.ReshuffleEverySixtyFourDraws := by
  intro s n g hg
  refine ⟨fun hc => ⟨linesOf g.order[g.cursor.toNat], fun _ => getElem_linesOf _, ?_⟩, fun hc k => ?_⟩
  · by_cases hlast : g.cursor.toNat = 63
    · rw [if_pos hlast, exec_draw_of_inst hg (drawOp_of_last hlast), shuffleOp_chip]
      rfl
    · have hlt : g.cursor.toNat < 63 := by omega
      rw [if_neg hlast, exec_draw_of_inst hg (drawOp_of_lt hlt)]
      rfl
  · obtain ⟨t, g', hk, hg', hafter⟩ := drawMany_of_epoch_start hg hc k
    exact ⟨_, t, g', hk, hg', hafter.cursor_eq, hafter.order_eq, hafter.rng_eq⟩

/-! ### The scheduler inside a STEP -/

theorem riseOf_clk_iff {s : State} {g : GenInst} :
    riseOf .clk (q16Value s.inp.clkIn) g = true ↔ risesClk s g := by
  simp [riseOf, isRise, isHigh, GenInst.prev]

/-- STEP of an existing generator completes from any cursor that is an address of ORDER. -/
theorem exec_step_of_inst {n : U4} {s : State} {g : GenInst} (hg : s.inst? n = some g) (hc : g.cursor.toNat < 64) :
    ∃ c, clockPhase Config.chip s.inp ⟨s.shared, g⟩ = some c ∧
      exec (.step n) s = .next (s.putReach n (samplePhase Config.chip s.inp c)).accepted := by
  obtain ⟨c, h⟩ := Option.isSome_iff_exists.mp
    (clockPhase_isSome (cfg := Config.chip) (p := s.inp) (r := ⟨s.shared, g⟩) hc)
  exact ⟨c, h, stepCommand_of_inst hg h⟩

/-- The clock's part of a STEP leaves the scheduler alone without a rising edge, and draws with one (R126). -/
theorem clockPhase_scheduler {s : State} {g : GenInst} {c : Reach}
    (h : clockPhase Config.chip s.inp ⟨s.shared, g⟩ = some c) (hc : g.cursor.toNat < 64) :
    (¬ risesClk s g ∧ c.inst.order = g.order ∧ c.inst.cursor = g.cursor ∧ c.inst.lines = g.lines ∧
      c.shared.rng = s.shared.rng) ∨
    (risesClk s g ∧ c.inst.hexval = g.order[g.cursor.toNat] ∧ c.inst.cursor.toNat = (g.cursor.toNat + 1) % 64 ∧
      c.inst.order = (if g.cursor.toNat = 63 then fisherYates s.shared.rng g.order else g.order) ∧
      c.shared.rng = (if g.cursor.toNat = 63 then advance 63 s.shared.rng else s.shared.rng)) := by
  rcases clockPhase_cases h with ⟨hrise, rfl⟩ | ⟨hrise, d, hd, rfl⟩
  · refine .inl ⟨?_, edgeOp_order _ _ _, edgeOp_cursor _ _ _, edgeOp_lines _ _ _, rfl⟩
    rw [← riseOf_clk_iff, hrise]
    decide
  · refine .inr ⟨riseOf_clk_iff.mp hrise, ?_⟩
    rw [GenInst.hexval, divideOp_lines, divideOp_cursor, divideOp_order, divideOp_rng]
    exact drawOp_scheduler hd hc

/-- Settles O56: 63 calls of the shuffle at the end of an epoch, and the one of NOISE. -/
theorem stepMakesOneOrSixtyFourRandCalls : Obligations.StepMakesOneOrSixtyFourRandCalls := by
  intro s n g hg hc
  obtain ⟨c, hclock, hstep⟩ := exec_step_of_inst hg hc
  refine ⟨_, hstep, ?_⟩
  rw [State.accepted_shared, State.putReach_shared, samplePhase_rng]
  rcases clockPhase_scheduler hclock hc with ⟨hrise, -, -, -, hrng⟩ | ⟨hrise, -, -, -, hrng⟩ <;> rw [hrng]
  · rw [if_neg fun h => hrise h.1]
  · by_cases hlast : g.cursor.toNat = 63
    · rw [if_pos hlast, if_pos ⟨hrise, hlast⟩, advance_add]
    · rw [if_neg hlast, if_neg fun h => hlast h.2]

/-- Settles O57: what follows the clock's part of a STEP leaves the scheduler alone. -/
theorem drawOnlyOnClockEdge : Obligations.DrawOnlyOnClockEdge := by
  intro s n g hc hg
  obtain ⟨c, hclock, hstep⟩ := exec_step_of_inst hg hc
  obtain ⟨horder, hcursor, hlines, -⟩ := samplePhase_frame Config.chip s.inp c
  refine ⟨_, _, hstep, List.getElem?_set_self (State.inst?_eq_some hg).1, ?_⟩
  rw [GenInst.hexval, horder, hcursor, hlines]
  rcases clockPhase_scheduler hclock hc with
    ⟨hrise, ho, hcur, hl, -⟩ | ⟨hrise, hhex, hcur, ho, -⟩
  · exact ⟨fun _ => ⟨ho, hcur, hl⟩, fun h => absurd h hrise⟩
  · exact ⟨fun h => absurd hrise h, fun _ => ⟨hhex, hcur, fun hlast => ho.trans (if_neg hlast)⟩⟩

/-- Settles O59: a STEP reads its own record and writes it alone, and writes at two addresses commute. -/
theorem otherInstancesHaveNoEffect : Obligations.OtherInstancesHaveNoEffect := by
  intro s t n m x hm h
  have hsame : State.inst? { s with insts := s.insts.set m x } n = s.inst? n := List.getElem?_set_ne hm
  rw [exec_step] at h ⊢
  rcases stepCommand_next h with ⟨hn, rfl⟩ | ⟨g, c, hg, hc, rfl⟩
  · exact stepCommand_of_absent (hsame.trans hn)
  · rw [stepCommand_of_inst (hsame.trans hg) hc]
    simp only [State.putReach, State.accepted, List.set_comm _ _ hm]

end Sys2Proof.Machine
end

section
/-! The pitch quantizer and the scale database (spec/42_quantizer.md R140 to R146): what SCALE returns for each range of
indices, QUANT's search as the first minimum of the distances, and what it makes of a value already on a scale. -/

namespace Sys2Proof.Machine

open Sys2Proof.Spec

/-! ### The running maximum, from which the tables are built -/

/-- The running maximum over any linear order; `runMaxInt` and `runMaxReal` are its two uses. -/
def runMax {α : Type} [LinearOrder α] (m : α) : List α → List α
  | [] => []
  | x :: xs => max m x :: runMax (max m x) xs

theorem runMaxInt_eq_runMax (m : Int) (l : List Int) : runMaxInt m l = runMax m l := by
  induction l generalizing m with
  | nil => rfl
  | cons x xs ih => rw [runMaxInt, runMax, ih]

theorem runMaxReal_eq_runMax (m : REAL) (l : List REAL) : runMaxReal m l = runMax m l := by
  induction l generalizing m with
  | nil => rfl
  | cons x xs ih => rw [runMaxReal, runMax, ih]

section RunMax

variable {α : Type} [LinearOrder α] {m b x : α} {l : List α}

@[simp] theorem length_runMax (m : α) (l : List α) : (runMax m l).length = l.length := by
  induction l generalizing m with
  | nil => rfl
  | cons x xs ih => rw [runMax, List.length_cons, List.length_cons, ih]

theorem le_of_mem_runMax (h : x ∈ runMax m l) : m ≤ x := by
  induction l generalizing m with
  | nil => cases h
  | cons y ys ih =>
    rcases List.mem_cons.mp h with rfl | htail
    · exact le_max_left m y
    · exact (le_max_left m y).trans (ih htail)

theorem pairwise_runMax (m : α) (l : List α) : (runMax m l).Pairwise (· ≤ ·) := by
  induction l generalizing m with
  | nil => exact .nil
  | cons y ys ih => exact .cons (fun _ => le_of_mem_runMax) (ih _)

theorem runMax_le (hm : m ≤ b) (hl : ∀ y ∈ l, y ≤ b) (h : x ∈ runMax m l) : x ≤ b := by
  induction l generalizing m with
  | nil => cases h
  | cons y ys ih =>
    have hmax : max m y ≤ b := max_le hm (hl y List.mem_cons_self)
    rcases List.mem_cons.mp h with rfl | htail
    · exact hmax
    · exact ih hmax (fun z hz => hl z (List.mem_cons_of_mem y hz)) htail

end RunMax

/-! ### The standard lists and the exotic rows (R62, R63, R143) -/

/-- The entries of a standard list before its octave entry. -/
def lowDegrees (r : RawStdScale) : List Int :=
  runMax 0 ((r.degrees.toList.take (4 + r.extra.val)).map fun d => (d.val : Int))

theorem stdScaleList_eq (r : RawStdScale) : stdScaleList r = lowDegrees r ++ [12] := by
  rw [stdScaleList, runMaxInt_eq_runMax, lowDegrees]

theorem length_lowDegrees (r : RawStdScale) : (lowDegrees r).length = 4 + r.extra.val := by
  have h := r.extra.isLt
  simp only [lowDegrees, length_runMax, List.length_map, List.length_take, Vector.length_toList]
  omega

theorem nonneg_of_mem_lowDegrees {r : RawStdScale} {o : Int} (h : o ∈ lowDegrees r) : 0 ≤ o :=
  le_of_mem_runMax h

theorem le_of_mem_lowDegrees {r : RawStdScale} {o : Int} (h : o ∈ lowDegrees r) : o ≤ 12 := by
  refine runMax_le (by decide) (fun y hy => ?_) h
  obtain ⟨d, -, rfl⟩ := List.mem_map.mp hy
  omega

theorem stdScaleList_bounds {r : RawStdScale} {o : Int} (h : o ∈ stdScaleList r) : 0 ≤ o ∧ o ≤ 12 := by
  rw [stdScaleList_eq, List.mem_append, List.mem_singleton] at h
  rcases h with h | rfl
  · exact ⟨nonneg_of_mem_lowDegrees h, le_of_mem_lowDegrees h⟩
  · decide

theorem stdScaleList_pairwise (r : RawStdScale) : (stdScaleList r).Pairwise (· ≤ ·) := by
  rw [stdScaleList_eq, List.pairwise_append]
  refine ⟨pairwise_runMax _ _, List.pairwise_singleton _ _, fun o ho e he => ?_⟩
  rw [List.mem_singleton.mp he]
  exact le_of_mem_lowDegrees ho

theorem length_stdScaleList (r : RawStdScale) : (stdScaleList r).length = 5 + r.extra.val := by
  rw [stdScaleList_eq, List.length_append, length_lowDegrees, List.length_singleton]
  omega

theorem getLast?_stdScaleList (r : RawStdScale) : (stdScaleList r).getLast? = some 12 := by
  rw [stdScaleList_eq, List.getLast?_concat]

theorem twelve_mem_stdScaleList (r : RawStdScale) : 12 ∈ stdScaleList r :=
  List.mem_of_getLast? (getLast?_stdScaleList r)

theorem mem_readStdScale {cfg : Config} {k : Fin 16} {o : REAL} :
    o ∈ readStdScale cfg k ↔ ∃ m ∈ stdScaleList (cfg.stdScale k), (m : REAL) = o :=
  List.mem_map

theorem readStdScale_pairwise (cfg : Config) (k : Fin 16) : (readStdScale cfg k).Pairwise (· ≤ ·) :=
  List.pairwise_map.mpr ((stdScaleList_pairwise _).imp Int.cast_le.mpr)

/-- What R62 and R143 ask of a standard list. -/
theorem readStdScale_wellFormed (cfg : Config) (k : Fin 16) :
    5 ≤ (readStdScale cfg k).length ∧ (readStdScale cfg k).length ≤ 8 ∧ (readStdScale cfg k).getLast? = some 12 ∧
      (readStdScale cfg k).Pairwise (· ≤ ·) ∧ ∀ o ∈ readStdScale cfg k, 0 ≤ o ∧ ∃ m : Int, o = m := by
  have hlen : (readStdScale cfg k).length = 5 + (cfg.stdScale k).extra.val := by
    rw [readStdScale, List.length_map, length_stdScaleList]
  refine ⟨by omega, by omega, ?_, readStdScale_pairwise cfg k, fun o ho => ?_⟩
  · rw [readStdScale, List.getLast?_map, getLast?_stdScaleList]
    rfl
  · obtain ⟨m, hm, rfl⟩ := mem_readStdScale.mp ho
    exact ⟨Int.cast_nonneg (stdScaleList_bounds hm).1, m, rfl⟩

/-- The populated entries of an exotic row. -/
def populatedOffsets (r : RawExotic) : List REAL := runMax 0 (r.slots.toList.take r.populated.val)

theorem exoticList_eq (r : RawExotic) :
    exoticList r = populatedOffsets r ++ List.replicate (20 - r.populated.val) 0 := by
  rw [exoticList, runMaxReal_eq_runMax, populatedOffsets]

theorem length_populatedOffsets (r : RawExotic) : (populatedOffsets r).length = r.populated.val := by
  have h := r.populated.isLt
  simp only [populatedOffsets, length_runMax, List.length_take, Vector.length_toList]
  omega

/-- What R63 asks of an exotic row: the part that is populated, and the zeros after it (R141). -/
theorem readExotic_wellFormed (cfg : Config) (k : Fin 117) :
    (readExotic cfg k).length = 20 ∧ ∃ m, m ≤ 20 ∧ ((readExotic cfg k).take m).Pairwise (· ≤ ·) ∧
      (∀ o ∈ readExotic cfg k, 0 ≤ o) ∧ ∀ o ∈ (readExotic cfg k).drop m, o = 0 := by
  rw [readExotic, exoticList_eq]
  have hlen := length_populatedOffsets (cfg.exotic k)
  have hpop := (cfg.exotic k).populated.isLt
  refine ⟨?_, _, Nat.lt_succ_iff.mp hpop, ?_, fun o ho => ?_, fun o ho => ?_⟩
  · rw [List.length_append, hlen, List.length_replicate]
    omega
  · rw [List.take_left' hlen]
    exact pairwise_runMax _ _
  · rcases List.mem_append.mp ho with h | h
    · exact le_of_mem_runMax h
    · exact (List.eq_of_mem_replicate h).ge
  · rw [List.drop_left' hlen] at ho
    exact List.eq_of_mem_replicate ho

/-! ### SCALE -/

theorem exec_scale (x : S16) (s : State) :
    exec (.scale x) s = .next { s with ret := .offsets (scaleOf Config.chip x.toInt) } := rfl

theorem scaleOf_standard (cfg : Config) (k : Fin 16) : scaleOf cfg k.val = readStdScale cfg k := by
  rw [scaleOf, dif_pos ⟨by omega, by omega⟩]
  rfl

theorem scaleOf_exotic (cfg : Config) (k : Fin 117) : scaleOf cfg (16 + k.val) = readExotic cfg k := by
  rw [scaleOf, dif_neg (by omega), dif_pos ⟨by omega, by omega⟩]
  congr
  omega

theorem scaleOf_outside (cfg : Config) {x : Int} (h : x < 0 ∨ 132 < x) : scaleOf cfg x = [] := by
  rw [scaleOf, dif_neg (by omega), dif_neg (by omega)]

/-- Settles O31: the three ranges of R140, and what the tables hold there. -/
theorem scaleResolvesIndex : Obligations.ScaleResolvesIndex := by
  intro s x
  refine ⟨_, exec_scale x s, fun k hk => ?_, fun k hk => ?_, scaleOf_outside _⟩
  · rw [hk, scaleOf_standard]
    exact ⟨rfl, readStdScale_wellFormed _ k⟩
  · rw [hk, scaleOf_exotic]
    exact ⟨rfl, readExotic_wellFormed _ k⟩

/-! ### The search of QUANT is the first minimum of the distances -/

theorem rabs_eq_abs (x : REAL) : rabs x = |x| := by
  unfold rabs
  split
  next h => exact (abs_of_nonneg h).symm
  next h => exact (abs_of_neg (not_le.mp h)).symm

theorem classDist_emod (t mr : Int) (o : REAL) : classDist (emod t 12) mr o = ruleDist t mr o :=
  rabs_eq_abs _

/-- What the search remembers of the degree it has settled on so far. -/
def Best.ofDegree (tc mr : Int) : Option REAL → Best
  | none => ⟨none, 0⟩
  | some o => ⟨some (classDist tc mr o), o⟩

/-- One iteration is one step of the library's `List.argmin`, which also keeps the first of equals. -/
theorem searchStep_ofDegree (tc mr : Int) (b : Option REAL) (o : REAL) :
    searchStep tc mr (Best.ofDegree tc mr b) o =
      Best.ofDegree tc mr (List.argAux (fun x y => classDist tc mr x < classDist tc mr y) b o) := by
  cases b with
  | none => rfl
  | some c => exact (apply_ite (Best.ofDegree tc mr) _ (some o) (some c)).symm

theorem chosenOffset_eq_argmin (l : List REAL) (tc mr : Int) :
    chosenOffset l tc mr = (l.argmin (classDist tc mr)).getD 0 := by
  have hfold : l.foldl (searchStep tc mr) (Best.ofDegree tc mr none) =
      Best.ofDegree tc mr (l.argmin (classDist tc mr)) :=
    List.foldl_hom _ fun b o => searchStep_ofDegree tc mr b o
  calc chosenOffset l tc mr = (Best.ofDegree tc mr (l.argmin (classDist tc mr))).chosen := by rw [← hfold]; rfl
    _ = (l.argmin (classDist tc mr)).getD 0 := by cases l.argmin (classDist tc mr) <;> rfl

@[simp] theorem chosenOffset_nil (tc mr : Int) : chosenOffset [] tc mr = 0 := rfl

theorem chosenOffset_mem_argmin {l : List REAL} (h : l ≠ []) (tc mr : Int) :
    chosenOffset l tc mr ∈ l.argmin (classDist tc mr) := by
  have hne : l.argmin (classDist tc mr) ≠ none := mt List.argmin_eq_none.mp h
  obtain ⟨m, hm⟩ := Option.ne_none_iff_exists'.mp hne
  rw [chosenOffset_eq_argmin, hm]
  exact Option.mem_some_self m

/-- The first minimum by its address. -/
theorem exists_getElem_of_mem_argmin {f : REAL → REAL} {l : List REAL} {m : REAL} (h : m ∈ l.argmin f) :
    ∃ (k : Nat) (hk : k < l.length), l[k] = m ∧
      ∀ (j : Nat) (hj : j < l.length), f l[k] ≤ f l[j] ∧ (j < k → f l[k] < f l[j]) := by
  obtain ⟨hmem, hmin, hfirst⟩ := List.mem_argmin_iff.mp h
  have hk := List.idxOf_lt_length_iff.mpr hmem
  refine ⟨l.idxOf m, hk, List.getElem_idxOf hk, fun j hj => ?_⟩
  rw [List.getElem_idxOf hk]
  refine ⟨hmin _ (List.getElem_mem hj), fun hlt => lt_of_not_ge fun hle => ?_⟩
  have hfind := List.not_of_lt_findIdx (hlt.trans_le (hfirst _ (List.getElem_mem hj) hle))
  rw [beq_self_eq_true] at hfind
  cases hfind

/-! ### QUANT -/

theorem exec_quant (v : REAL) (x root tr mr : S16) (s : State) : exec (.quant v x root tr mr) s =
    .next { s with ret := .real (quantOf Config.chip v x.toInt root.toInt tr.toInt mr.toInt) } := rfl

/-- QUANT by its target: the target's octave and the degree chosen for its class. -/
theorem quantOf_of_target {v : REAL} {root tr t : Int} (ht : targetSemitone v root tr = t) (cfg : Config) (x mr : Int) :
    quantOf cfg v x root tr mr =
      (12 * ((t / 12 : Int) : REAL) + chosenOffset (scaleOf cfg x) (emod t 12) mr) / 12 := by
  rw [← ht]
  rfl

theorem quantOf_of_empty {cfg : Config} {x : Int} (hx : scaleOf cfg x = []) (v : REAL) (root tr mr : Int) :
    quantOf cfg v x root tr mr = ((targetSemitone v root tr / 12 : Int) : REAL) := by
  rw [quantOf_of_target rfl, hx, chosenOffset_nil, add_zero, mul_div_cancel_left₀ _ (by norm_num)]

/-- Settles O33: without a degree the search keeps its sentinel (R142). -/
theorem emptyScaleGivesWholeOctaves : Obligations.EmptyScaleGivesWholeOctaves := by
  intro cfg v x root tr mr hx
  exact ⟨fun tc => by rw [hx, chosenOffset_nil], quantOf_of_empty hx v root tr mr⟩

/-- Settles O32: an empty scale, or the first minimum over one that has degrees. -/
theorem quantPicksFirstNearestDegree : Obligations.QuantPicksFirstNearestDegree := by
  intro s v x root tr mr
  refine ⟨_, exec_quant v x root tr mr s, ?_⟩
  intro t l
  rcases eq_or_ne l [] with hl | hl
  · exact .inl ⟨hl, quantOf_of_empty hl v _ _ _⟩
  · obtain ⟨k, hk, hchosen, hnearest⟩ :=
      exists_getElem_of_mem_argmin (chosenOffset_mem_argmin hl (emod t 12) mr.toInt)
    simp only [classDist_emod] at hnearest
    refine .inr ⟨k, hk, ?_, hnearest⟩
    rw [hchosen]
    exact quantOf_of_target rfl _ _ _

/-! ### A value on a standard scale (R146 (a)) -/

theorem rmod12_intCast (m : Int) : rmod12 m = ((m % 12 : Int) : REAL) := by
  have hfloor : ((m : REAL) / 12).floor = m / 12 := Rat.floor_intCast_div_natCast m 12
  rw [rmod12, hfloor, Int.emod_def]
  push_cast
  rfl

/-- An integer is its own nearest integer. -/
theorem roundHaz_intCast (m : Int) : roundHaz m = m := by
  have h : |(m : REAL) - (roundHaz m : REAL)| < 1 :=
    (roundHazIsNearestAwayFromZero m).1.trans_lt (by norm_num)
  rw [← Int.cast_sub, ← Int.cast_abs] at h
  have hzero := Int.abs_lt_one_iff.mp (by exact_mod_cast h)
  omega

theorem classDist_eq_zero_iff {tc mr : Int} {o : REAL} : classDist tc mr o = 0 ↔ rmod12 (o + mr) = tc := by
  rw [classDist, rabs_eq_abs, abs_eq_zero, sub_eq_zero]

/-- Where a degree has the target's class, the chosen one has it too; and in a non-decreasing list no degree of that class
lies below it, because it is the first. -/
theorem chosenOffset_of_match {l : List REAL} {tc mr : Int} {o : REAL} (hsorted : l.Pairwise (· ≤ ·)) (ho : o ∈ l)
    (hclass : rmod12 (o + mr) = tc) :
    chosenOffset l tc mr ∈ l ∧ rmod12 (chosenOffset l tc mr + mr) = tc ∧ chosenOffset l tc mr ≤ o := by
  obtain ⟨hmem, hmin, hfirst⟩ :=
    List.mem_argmin_iff.mp (chosenOffset_mem_argmin (List.ne_nil_of_mem ho) tc mr)
  have hdist := classDist_eq_zero_iff.mpr hclass
  have hzero : classDist tc mr (chosenOffset l tc mr) = 0 :=
    le_antisymm (hdist ▸ hmin o ho) (by rw [classDist, rabs_eq_abs]; exact abs_nonneg _)
  refine ⟨hmem, classDist_eq_zero_iff.mp hzero, ?_⟩
  rw [← List.getElem_idxOf (List.idxOf_lt_length_iff.mpr hmem), ← List.getElem_idxOf (List.idxOf_lt_length_iff.mpr ho)]
  exact hsorted.sortedLE.getElem_le_getElem_of_le (hfirst o ho (hdist.trans hzero.symm).le)

/-- For a class that a standard scale has, QUANT without rotation chooses the least entry of that class. -/
theorem chosenOffset_standard {cfg : Config} {k : Fin 16} {o tc : Int} (ho : o ∈ stdScaleList (cfg.stdScale k))
    (hclass : o % 12 = tc) : ∃ m ∈ stdScaleList (cfg.stdScale k),
      chosenOffset (readStdScale cfg k) tc 0 = m ∧ m % 12 = tc ∧ m ≤ o := by
  have hrmod (m : Int) : rmod12 ((m : REAL) + ((0 : Int) : REAL)) = ((m % 12 : Int) : REAL) := by
    rw [Int.cast_zero, add_zero, rmod12_intCast]
  obtain ⟨hmem, hcls, hle⟩ := chosenOffset_of_match (readStdScale_pairwise cfg k)
    (mem_readStdScale.mpr ⟨o, ho, rfl⟩) ((hrmod o).trans (congrArg _ hclass))
  obtain ⟨m, hm, hcast⟩ := mem_readStdScale.mp hmem
  rw [← hcast, hrmod] at hcls
  rw [← hcast] at hle
  exact ⟨m, hm, hcast.symm, Int.cast_inj.mp hcls, Int.cast_le.mp hle⟩

/-- The target of a value that is `o` semitones above octave `n`. -/
theorem targetSemitone_degree (n o : Int) : targetSemitone (n + (o : REAL) / 12) 0 0 = 12 * n + o := by
  have hv : 12 * ((n : REAL) + (o : REAL) / 12) = ((12 * n + o : Int) : REAL) := by
    push_cast
    ring
  rw [targetSemitone, hv, roundHaz_intCast, add_zero, add_zero]

/-- A degree `o` of octave `n` comes back in the octave of `12 * n + o`, as the least entry of its class. -/
theorem quantOf_degree {cfg : Config} {k : Fin 16} {o : Int} (n : Int) (ho : o ∈ stdScaleList (cfg.stdScale k)) :
    ∃ m ∈ stdScaleList (cfg.stdScale k), m % 12 = o % 12 ∧ m ≤ o ∧
      quantOf cfg (n + (o : REAL) / 12) k.val 0 0 0 = ((n + o / 12 : Int) : REAL) + (m : REAL) / 12 := by
  have hclass : o % 12 = emod (12 * n + o) 12 := (Int.mul_add_emod_self_left 12 n o).symm
  obtain ⟨m, hm, hchosen, hcls, hle⟩ := chosenOffset_standard ho hclass
  refine ⟨m, hm, hcls.trans hclass.symm, hle, ?_⟩
  have hoctave : (12 * n + o) / 12 = n + o / 12 := by omega
  rw [quantOf_of_target (targetSemitone_degree n o), scaleOf_standard, hchosen, hoctave]
  ring

/-- An entry below the octave entry is the least one of its class, so QUANT chooses it. -/
theorem quantOf_degree_of_ne_twelve {cfg : Config} {k : Fin 16} {o : Int} (n : Int)
    (ho : o ∈ stdScaleList (cfg.stdScale k)) (hne : o ≠ 12) :
    quantOf cfg (n + (o : REAL) / 12) k.val 0 0 0 = n + (o : REAL) / 12 := by
  obtain ⟨m, hm, hclass, hle, hq⟩ := quantOf_degree n ho
  have hbounds := stdScaleList_bounds ho
  have hnonneg := (stdScaleList_bounds hm).1
  obtain rfl : m = o := by omega
  have hoctave : m / 12 = 0 := by omega
  rw [hq, hoctave, add_zero]

/-- The octave entry of a scale without an entry 0 is the only one of its class, and comes back in the octave above. -/
theorem quantOf_twelve_of_zero_notMem {cfg : Config} {k : Fin 16} (n : Int) (hzero : 0 ∉ stdScaleList (cfg.stdScale k)) :
    quantOf cfg (n + ((12 : Int) : REAL) / 12) k.val 0 0 0 = n + 2 := by
  obtain ⟨m, hm, hclass, hle, hq⟩ := quantOf_degree n (twelve_mem_stdScaleList (cfg.stdScale k))
  have hnonneg := (stdScaleList_bounds hm).1
  have hne : m ≠ 0 := fun h => hzero (h ▸ hm)
  obtain rfl : m = 12 := by omega
  rw [hq]
  push_cast
  norm_num
  ring

/-- Settles O35: beside an entry 0 the octave entry of octave `n` is the entry 0 of octave `n + 1`. -/
theorem quantIdempotentOnStandardScale : Obligations.QuantIdempotentOnStandardScale := by
  intro cfg k o n ho
  constructor
  · intro h
    by_cases hne : o = 12
    · subst hne
      have hzero := h.resolve_left (· rfl)
      have hroot : (n : REAL) + ((12 : Int) : REAL) / 12 = ((n + 1 : Int) : REAL) + ((0 : Int) : REAL) / 12 := by
        push_cast
        norm_num
      rw [hroot]
      exact quantOf_degree_of_ne_twelve (n + 1) hzero (by decide)
    · exact quantOf_degree_of_ne_twelve n ho hne
  · rintro rfl hzero
    exact quantOf_twelve_of_zero_notMem n hzero

end Sys2Proof.Machine
end

section
/-! The integer-sequence player (spec/43_integer_sequence.md R160 to R168): the range and the class of the loop offset, the
fold of the pendulum, and what the player makes of the table entry it reads. -/

namespace Sys2Proof.Machine

open Sys2Proof.Spec

/-! ### The loop offset (R160) -/

theorem exec_iseqOffLoop (pos : U32) (start len stride : S16) (s : State) :
    exec (.iseqOffLoop pos start len stride) s =
      .next { s with ret := .int (offLoop pos.toNat start.toInt len.toInt stride.toInt) } := rfl

section OffLoop

variable {pos start len stride : Int}

theorem offLoop_of_len_nonpos (h : len ≤ 0) : offLoop pos start len stride = start := if_pos h

theorem offLoop_of_walk_nonneg (hlen : 0 < len) (h : 0 ≤ pos * stride) :
    offLoop pos start len stride = start + pos * stride % len := by
  rw [offLoop, if_neg (not_le.mpr hlen), if_pos h, emod]

theorem offLoop_of_walk_neg (hlen : 0 < len) (h : pos * stride < 0) :
    offLoop pos start len stride = start + (pos * stride).tmod len := by
  rw [offLoop, if_neg (not_le.mpr hlen), if_neg (not_le.mpr h), trem]

/-- Floored and truncated remainder alike: the walk is reduced by a multiple of the length. -/
theorem dvd_offLoop_sub (hlen : 0 < len) : len ∣ offLoop pos start len stride - (start + pos * stride) := by
  rcases le_or_gt 0 (pos * stride) with h | h
  · rw [offLoop_of_walk_nonneg hlen h, add_sub_add_left_eq_sub]
    exact Int.dvd_emod_sub_self
  · rw [offLoop_of_walk_neg hlen h, add_sub_add_left_eq_sub]
    exact Int.dvd_tmod_sub_self

theorem offLoop_upward (hlen : 0 < len) (hpos : 0 ≤ pos) (hstride : 0 ≤ stride) :
    start ≤ offLoop pos start len stride ∧ offLoop pos start len stride < start + len := by
  rw [offLoop_of_walk_nonneg hlen (mul_nonneg hpos hstride)]
  have hlow := Int.emod_nonneg (pos * stride) hlen.ne'
  have hhigh := Int.emod_lt_of_pos (pos * stride) hlen
  omega

/-- A negative stride walks downward, and at position 0 the walk has not left `start`. -/
theorem offLoop_downward (hlen : 0 < len) (hpos : 0 ≤ pos) (hstride : stride < 0) :
    start - len < offLoop pos start len stride ∧ offLoop pos start len stride ≤ start := by
  rcases hpos.eq_or_lt with rfl | hpos
  · rw [offLoop_of_walk_nonneg hlen (zero_mul stride).ge, zero_mul, Int.zero_emod]
    omega
  · have hwalk := mul_neg_of_pos_of_neg hpos hstride
    rw [offLoop_of_walk_neg hlen hwalk]
    have hlow := Int.lt_tmod_of_pos (pos * stride) hlen
    have hhigh := Int.tmod_nonneg len (neg_nonneg.mpr hwalk.le)
    rw [Int.neg_tmod] at hhigh
    omega

end OffLoop

/-- Settles O36: the walk's reduction keeps its class, and its direction gives the range. -/
theorem loopOffsetWalksTheRange : Obligations.LoopOffsetWalksTheRange := by
  intro s pos start len stride
  have hpos : (0 : Int) ≤ pos.toNat := Int.natCast_nonneg _
  exact ⟨_, exec_iseqOffLoop pos start len stride s, offLoop_of_len_nonpos,
    fun hlen => ⟨dvd_offLoop_sub hlen, offLoop_upward hlen hpos, offLoop_downward hlen hpos⟩⟩

/-! ### The pendulum offset (R162) -/

theorem exec_iseqOffPend (pos : U32) (start len stride : S16) (s : State) :
    exec (.iseqOffPend pos start len stride) s =
      .next { s with ret := .int (offPend pos.toNat start.toInt len.toInt stride.toInt) } := rfl

/-- The index in 0..len-1 to which a position of the pendulum folds: the remainder in the cycle on the way forward, its
distance from the cycle's end on the way back. -/
def foldPos (pos len : Int) : Int :=
  if len ≤ pos % (2 * len - 2) then 2 * len - 2 - pos % (2 * len - 2) else pos % (2 * len - 2)

section OffPend

variable {pos start len stride : Int}

theorem offPend_of_len_le_one (h : len ≤ 1) : offPend pos start len stride = start := if_pos h

theorem offPend_eq_foldPos (hlen : 2 ≤ len) : offPend pos start len stride = start + foldPos pos len * stride := by
  rw [offPend, if_neg (by omega), foldPos]
  exact (apply_ite (start + · * stride) _ _ _).symm

theorem foldPos_bounds (hlen : 2 ≤ len) : 0 ≤ foldPos pos len ∧ foldPos pos len < len := by
  have hlow := Int.emod_nonneg pos (show 2 * len - 2 ≠ 0 by omega)
  have hhigh := Int.emod_lt_of_pos pos (show 0 < 2 * len - 2 by omega)
  unfold foldPos
  split <;> omega

/-- Forward the index is congruent to the position, back it is congruent to its negative. -/
theorem dvd_foldPos (pos len : Int) : 2 * len - 2 ∣ pos - foldPos pos len ∨ 2 * len - 2 ∣ pos + foldPos pos len := by
  have hmod : 2 * len - 2 ∣ pos - pos % (2 * len - 2) := Int.dvd_self_sub_emod
  unfold foldPos
  split
  · refine .inr ?_
    rw [add_sub_left_comm]
    exact (dvd_refl _).add hmod
  · exact .inl hmod

theorem foldPos_forward (hpos : 0 ≤ pos) (hlen : 2 ≤ len) (h : pos < len) : foldPos pos len = pos := by
  rw [foldPos, Int.emod_eq_of_lt hpos (by omega), if_neg (not_le.mpr h)]

theorem foldPos_back (hlen : 0 ≤ len) (h : len ≤ pos) (hcycle : pos < 2 * len - 2) :
    foldPos pos len = 2 * len - 2 - pos := by
  rw [foldPos, Int.emod_eq_of_lt (hlen.trans h) hcycle, if_pos h]

theorem foldPos_cycle (hlen : 0 < len) : foldPos (2 * len - 2) len = 0 := by
  rw [foldPos, Int.emod_self, if_neg (not_le.mpr hlen)]

end OffPend

/-- Settles O37: the index is the fold of the position. -/
theorem pendulumOffsetFolds : Obligations.PendulumOffsetFolds := by
  intro s pos start len stride
  refine ⟨_, exec_iseqOffPend pos start len stride s, offPend_of_len_le_one, fun hlen => ?_⟩
  obtain ⟨hlow, hhigh⟩ := foldPos_bounds (pos := pos.toNat) hlen
  exact ⟨_, hlow, hhigh, offPend_eq_foldPos hlen, dvd_foldPos _ _⟩

/-! ### One cycle of the pendulum (R163) -/

/-- From start 0 with stride 1 the offset is the folded position itself, for every position of 32 bits. -/
theorem exec_iseqOffPend_unit {len : S16} {L p : Nat} (hL : len.toInt = L) (hlen : 2 ≤ L) (hp : p < 2 ^ 32) (s : State) :
    exec (.iseqOffPend (BitVec.ofNat 32 p) 0 len 1) s = .next { s with ret := .int (foldPos p L) } := by
  have hstart : (0 : S16).toInt = 0 := by decide
  have hstride : (1 : S16).toInt = 1 := by decide
  rw [exec_iseqOffPend, hL, hstart, hstride, offPend_eq_foldPos (by omega), BitVec.toNat_ofNat, Nat.mod_eq_of_lt hp,
    zero_add, mul_one]

/-- Settles O38: the first L positions go forward, the other L - 2 of the cycle back. -/
theorem pendulumSymmetry : Obligations.PendulumSymmetry := by
  intro s len L hL hlen
  have hlt : len.toInt < 2 ^ 15 := BitVec.toInt_lt
  constructor
  · have hcycle : 2 * L - 2 = L + (L - 2) := by omega
    rw [hcycle, List.range_add, List.map_append, List.map_append, List.map_map, List.map_map, List.map_map]
    congr 1
    · refine List.map_congr_left fun q hq => ?_
      have hq := List.mem_range.mp hq
      rw [exec_iseqOffPend_unit hL hlen (by omega), foldPos_forward (by omega) (by omega) (by omega)]
      rfl
    · refine List.map_congr_left fun q hq => ?_
      have hq := List.mem_range.mp hq
      have hback : 2 * (L : Int) - 2 - (L + q : Nat) = (L - 2 - q : Nat) := by omega
      rw [Function.comp_apply, exec_iseqOffPend_unit hL hlen (by omega), foldPos_back (by omega) (by omega) (by omega),
        hback]
      rfl
  · have hend : ((2 * L - 2 : Nat) : Int) = 2 * (L : Int) - 2 := by omega
    rw [exec_iseqOffPend_unit hL hlen (by omega), hend, foldPos_cycle (by omega)]

/-! ### The value of the player (R164) -/

/-- The table is read at the one address that the offset has modulo 128. -/
theorem rawValue_of_address {k : Fin 10} {a : Fin 128} {sel off : Int} (hk : (k.val : Int) = sel)
    (ha : (a.val : Int) = off % 128) (cfg : Config) : rawValue cfg sel off = (cfg.iseqTable k a).toInt := by
  have haddr : tableAddr off = a := Fin.ext ((congrArg Int.toNat ha.symm).trans (Int.toNat_natCast _))
  subst hk
  rw [rawValue, dif_pos (by omega), haddr]
  rfl

theorem rawValue_of_absent {sel : Int} (h : sel < 0 ∨ 9 < sel) (cfg : Config) (off : Int) : rawValue cfg sel off = 0 :=
  dif_neg (by omega)

/-- The corrected truncated remainder is the floored one. -/
theorem pitchClass_eq_emod (v : Int) : pitchClass v = v % 12 := by
  unfold pitchClass trem
  rw [Int.tmod_eq_emod]
  split <;> split <;> omega

theorem exec_iseqVal_of_inst {n : U4} {s : State} {g : GenInst} (hg : s.inst? n = some g) :
    exec (.iseqVal n) s =
      .next { s with
        insts := s.insts.set n.toNat
          { g with outIseq := g.quantize Config.chip ((g.seqClass Config.chip : REAL) / 12) }
        ret := .real (g.quantize Config.chip ((g.seqClass Config.chip : REAL) / 12)) } := by
  rw [exec_iseqVal, runOn_total_of_inst hg]
  rfl

/-- Settles O39: the class is that of the raw value, reduced by ISEQ_MOD. -/
theorem iseqValReadsWrappedTable : Obligations.IseqValReadsWrappedTable := by
  intro s n g hg
  exact ⟨_, g.seqClass Config.chip, exec_iseqVal_of_inst hg, fun _ _ hk ha => rawValue_of_address hk ha _,
    fun hsel => rawValue_of_absent hsel _ _, pitchClass_eq_emod _⟩

/-! ### The advance (R168) -/

/-- Settles O40: the position is a word of 32 bits, so its sum wraps. -/
theorem iseqAdvRaisesPosition : Obligations.IseqAdvRaisesPosition := by
  intro s n g hg
  refine ⟨g.iseqPos + 1, BitVec.toNat_add _ _, ?_⟩
  rw [exec_iseqAdv, runOn_total_of_inst hg]
  rfl

end Sys2Proof.Machine
end

section
/-! The noise bank (spec/44_noise_bank.md R180 to R190): the white source, what each filter makes of a sample, the bound on
the pink poles, and the filter that NOISE selects. -/

namespace Sys2Proof.Machine

open Sys2Proof.Spec

/-! ### The white source (R180) -/

theorem exec_white (s : State) : exec .white s =
    .next { s with shared := (whiteOp Config.chip s.shared).1, ret := .real (whiteOp Config.chip s.shared).2 } := rfl

/-- WHITE on the hardware's configuration: the sample is taken from the state of RNG after the call. -/
theorem whiteOp_chip (h : Shared) : whiteOp Config.chip h =
    ({ h with rng := advance 1 h.rng }, whiteOf (advance 1 h.rng)) := by
  rw [whiteOp, rand, BitVec.ofNat_toNat, BitVec.setWidth_eq]
  rfl

/-- Settles O41: the configuration map keeps the sample in its range. -/
theorem whiteIsInUnitRange : Obligations.WhiteIsInUnitRange := by
  intro s
  obtain ⟨hlow, hhigh⟩ := whiteMap_range Config.chip (Config.chip.rngOut (advance 1 s.shared.rng))
  refine ⟨_, hlow, hhigh, rfl, ?_⟩
  rw [exec_white, whiteOp_chip]

/-! ### White noise (R182) -/

/-- Settles O42: by the definition of NOISE.WHITE. -/
theorem noiseWhitePassesSample : Obligations.NoiseWhitePassesSample := fun _ _ => rfl

/-! ### Pink noise (R184) -/

theorem exec_noisePink (w : REAL) (s : State) : exec (.noisePink w) s =
    .next { s with
      shared := (noisePinkOp Config.chip w s.shared).1, ret := .real (noisePinkOp Config.chip w s.shared).2 } := rfl

/-- NOISE.PINK writes the poles alone of the singletons. -/
theorem noisePinkOp_shared (cfg : Config) (w : REAL) (h : Shared) :
    (noisePinkOp cfg w h).1 = { h with pink := (noisePinkOp cfg w h).1.pink } := rfl

theorem noisePinkOp_pole (cfg : Config) (w : REAL) (h : Shared) (k : Fin 3) :
    (noisePinkOp cfg w h).1.pink[k] = cfg.pinkLeak k * h.pink[k] + cfg.pinkGain k * w :=
  Vector.getElem_ofFn k.isLt

/-- The output is a weighted sum of the poles as this sample leaves them, and of the sample (D29). -/
theorem noisePinkOp_out (cfg : Config) (w : REAL) (h : Shared) :
    (noisePinkOp cfg w h).2 = cfg.pinkW 0 * (noisePinkOp cfg w h).1.pink[0] +
      cfg.pinkW 1 * (noisePinkOp cfg w h).1.pink[1] + cfg.pinkW 2 * (noisePinkOp cfg w h).1.pink[2] +
      cfg.pinkDirect * w := by
  simp only [noisePinkOp, Vector.getElem_ofFn]
  rfl

/-- Settles O43: the poles and the output of NOISE.PINK. -/
theorem noisePinkMovesThreePoles : Obligations.NoisePinkMovesThreePoles := by
  intro s w
  refine ⟨_, noisePinkOp_pole Config.chip w s.shared, ?_⟩
  rw [exec_noisePink, noisePinkOp_out]
  rfl

/-- The bound of R184 is the fixed point of a leak at full gain: `leak * B + gain = B`. -/
theorem abs_leaky_le {a p g w : REAL} (ha : |a| < 1) (hw : |w| ≤ 1) (hp : |p| ≤ |g| / (1 - |a|)) :
    |a * p + g * w| ≤ |g| / (1 - |a|) := by
  have hdamp : 1 - |a| ≠ 0 := (sub_pos.mpr ha).ne'
  calc |a * p + g * w| ≤ |a| * |p| + |g| * |w| := by
        rw [← abs_mul, ← abs_mul]
        exact abs_add_le _ _
    _ ≤ |a| * (|g| / (1 - |a|)) + |g| * 1 := by gcongr
    _ = |g| / (1 - |a|) := by
        field_simp
        ring

/-- Settles O47: each new pole is one leaky step from the old one. -/
theorem pinkPolesStayBounded : Obligations.PinkPolesStayBounded := by
  intro cfg w h k hleak hw hpole
  rw [noisePinkOp_pole]
  exact abs_leaky_le hleak hw hpole

/-! ### Brown noise (R186) -/

/-- Settles O44: by the definition of NOISE.BROWN, whose output no rule clips. -/
theorem noiseBrownIsUnclipped : Obligations.NoiseBrownIsUnclipped := fun _ _ => ⟨_, rfl, rfl⟩

/-! ### Blue noise (R188) -/

theorem exec_noiseBlue (w : REAL) (sr : U32) (s : State) : exec (.noiseBlue w sr) s =
    .next { s with shared := { s.shared with bluePrev := w }, ret := .real (blueAlpha Config.chip sr * w) } := rfl

/-- R188: "the denominator is > 0", at every sample rate. -/
theorem blueAlpha_divisor_pos (cfg : Config) (sr : U32) : 0 < (sr.toNat : REAL) + twoPi cfg * blueFc := by
  have hpi := twoPi_pos cfg
  positivity

theorem blueAlpha_mul_divisor (cfg : Config) (sr : U32) :
    blueAlpha cfg sr * ((sr.toNat : REAL) + twoPi cfg * blueFc) = sr.toNat :=
  div_mul_cancel₀ _ (blueAlpha_divisor_pos cfg sr).ne'

theorem blueAlpha_zero (cfg : Config) : blueAlpha cfg 0 = 0 := by
  simp [blueAlpha]

/-- Settles O45: alpha is the rate over a positive divisor. -/
theorem noiseBlueScalesSample : Obligations.NoiseBlueScalesSample := by
  intro s w sr
  refine ⟨_, blueAlpha_divisor_pos Config.chip sr, ?_, ?_, exec_noiseBlue w sr s⟩
  · rw [mul_right_comm, blueAlpha_mul_divisor]
  · rintro rfl
    rw [blueAlpha_zero, zero_mul]

/-! ### The dispatch on NOISE_TYPE (R190) -/

section Dispatch

variable (cfg : Config) (sr : U32) (w : REAL) (h : Shared)

theorem filterOp_zero : filterOp cfg 0 sr w h = (h, w) := rfl

theorem filterOp_one : filterOp cfg 1 sr w h = noisePinkOp cfg w h := rfl

theorem filterOp_two : filterOp cfg 2 sr w h = noiseBrownOp cfg w h := rfl

theorem filterOp_three : filterOp cfg 3 sr w h = ({ h with bluePrev := w }, blueAlpha cfg sr * w) := rfl

/-- A selector that names no filter (D27). -/
theorem filterOp_of_outside {typ : Int} (htyp : typ < 0 ∨ 3 < typ) : filterOp cfg typ sr w h = (h, 0) := by
  rw [filterOp, if_neg (by omega), if_neg (by omega), if_neg (by omega), if_neg (by omega)]

end Dispatch

/-- NOISE on the hardware's configuration: the selected filter on the white sample, from the singletons that WHITE leaves. -/
theorem noiseOp_chip (sr : U32) (r : Reach) : noiseOp Config.chip sr r =
    let f := filterOp Config.chip (r.inst.p .noiseType) sr (whiteOf (advance 1 r.shared.rng))
      { r.shared with rng := advance 1 r.shared.rng }
    { shared := f.1, inst := { r.inst with outNoise := f.2 } } := by
  rw [noiseOp, whiteOp_chip]

theorem exec_noise_of_inst {n : U4} {s : State} {g : GenInst} (hg : s.inst? n = some g) :
    exec (.noise n) s =
      let f := filterOp Config.chip (g.p .noiseType) s.inp.sr (whiteOf (advance 1 s.shared.rng))
        { s.shared with rng := advance 1 s.shared.rng }
      .next { s with shared := f.1, insts := s.insts.set n.toNat { g with outNoise := f.2 }, ret := .real f.2 } := by
  rw [exec_noise, runOn_total_of_inst hg, noiseOp_chip]
  rfl

/-- Settles O46: NOISE is the selected filter after WHITE, and each value of NOISE_TYPE has its own filter. -/
theorem noiseRunsSelectedFilterOnly : Obligations.NoiseRunsSelectedFilterOnly := by
  intro s n g hg
  refine ⟨_, _, exec_noise_of_inst hg, fun hwhite => ?_, fun hpink => ?_, fun hbrown => ?_, fun hblue => ?_,
    fun hnone => ?_⟩
  · rw [hwhite, filterOp_zero]
    exact ⟨rfl, rfl⟩
  · rw [hpink, filterOp_one]
    exact ⟨noisePinkOp_pole _ _ _, noisePinkOp_shared _ _ _, noisePinkOp_out _ _ _⟩
  · rw [hbrown, filterOp_two]
    exact ⟨rfl, rfl⟩
  · rw [hblue, filterOp_three]
    exact ⟨rfl, rfl⟩
  · rw [filterOp_of_outside _ _ _ _ hnone]
    exact ⟨rfl, rfl⟩

end Sys2Proof.Machine
end

section
/-! The clock/edge engine (spec/45_clock_edge.md R200 to R206): EDGE and DIVIDE as equations on the whole state, and the
output of consecutive divisions. -/

namespace Sys2Proof.Machine

open Sys2Proof.Spec

/-! ### EDGE (R200) -/

theorem riseOf_eq_decide (input : EdgeInput) (level : REAL) (g : GenInst) :
    riseOf input level g = decide (1 < level ∧ g.prev input = false) := by
  cases hlatch : g.prev input <;> simp [riseOf, isRise, isHigh, hlatch]

/-- EDGE on either input: the rise is returned, and the latch takes the level. -/
theorem exec_edge_of_inst {n : U4} {s : State} {g : GenInst} (hg : s.inst? n = some g) (input : EdgeInput)
    (level : REAL) :
    exec (.edge n input level) s =
      .next { s with
        insts := s.insts.set n.toNat (g.setPrev input (decide (1 < level)))
        ret := .bit (decide (1 < level ∧ g.prev input = false)) } := by
  rw [exec_edge, runOn_total_of_inst hg, riseOf_eq_decide]
  rfl

/-- Settles O50: EDGE on the clock and on the trigger input. -/
theorem edgeDetectsRise : Obligations.EdgeDetectsRise :=
  fun _ _ _ level hg => ⟨exec_edge_of_inst hg .clk level, exec_edge_of_inst hg .trig level⟩

/-! ### DIVIDE (R204) -/

/-- DIVIDE at the factor or above (D25). -/
theorem divideOp_of_factor_le {r : Reach} (h : r.inst.p .clkDiv ≤ (r.shared.divcnt.toNat : Int) + 1) :
    divideOp r = { shared := { r.shared with divcnt := 0 }, inst := { r.inst with divOut := true } } :=
  if_pos h

theorem divideOp_of_lt_factor {r : Reach} (h : (r.shared.divcnt.toNat : Int) + 1 < r.inst.p .clkDiv) :
    divideOp r = { shared := { r.shared with divcnt := r.shared.divcnt + 1 }, inst := { r.inst with divOut := false } } :=
  if_neg h.not_ge

/-- A factor is at most 32767, so the sum below it does not wrap (R25). -/
theorem count_add_one_of_lt_factor {c : U16} {g : GenInst} (h : (c.toNat : Int) + 1 < g.p .clkDiv) :
    (c + 1).toNat = c.toNat + 1 := by
  have hfactor : 2 * g.p .clkDiv < 2 ^ 16 := BitVec.two_mul_toInt_lt
  exact toNat_add_one (by omega)

theorem exec_divide_of_inst {n : U4} {s : State} {g : GenInst} (hg : s.inst? n = some g) :
    exec (.divide n) s = .next ((s.putReach n (divideOp ⟨s.shared, g⟩)).withRet .none) := by
  rw [exec_divide, runOn_total_of_inst hg]

/-- Settles O51: the two cases of one division. -/
theorem divideCountsToFactor : Obligations.DivideCountsToFactor := by
  intro s n g hg
  refine ⟨fun hfires => ?_, fun hcounts => ⟨_, count_add_one_of_lt_factor hcounts, ?_⟩⟩
  · rw [exec_divide_of_inst hg, divideOp_of_factor_le (r := ⟨s.shared, g⟩) hfires]
    rfl
  · rw [exec_divide_of_inst hg, divideOp_of_lt_factor (r := ⟨s.shared, g⟩) hcounts]
    rfl

/-! ### Consecutive divisions (R206) -/

/-- With the factor `D` and a count below it, DIVIDE counts modulo `D` and is high when the raised count is a multiple. -/
theorem divideOp_counts_mod {r : Reach} {D : Nat} (hD : r.inst.p .clkDiv = D) (hc : r.shared.divcnt.toNat < D) :
    (divideOp r).shared.divcnt.toNat = (r.shared.divcnt.toNat + 1) % D ∧
      (divideOp r).inst.divOut = decide (D ∣ r.shared.divcnt.toNat + 1) := by
  by_cases hfull : r.shared.divcnt.toNat + 1 = D
  · rw [divideOp_of_factor_le (by omega), hfull]
    exact ⟨(Nat.mod_self D).symm, (decide_eq_true dvd_rfl).symm⟩
  · have hcounts : (r.shared.divcnt.toNat : Int) + 1 < r.inst.p .clkDiv := by omega
    have hlow : ¬ D ∣ r.shared.divcnt.toNat + 1 := Nat.not_dvd_of_pos_of_lt (Nat.succ_pos _) (by omega)
    rw [divideOp_of_lt_factor hcounts]
    exact ⟨by rw [count_add_one_of_lt_factor hcounts, Nat.mod_eq_of_lt (by omega)], (decide_eq_false hlow).symm⟩

/-- A division before `k` others puts its level at the front. -/
theorem divideMany_succ {n : U4} {k : Nat} {s u t : State} {g : GenInst} {outs : List Bool}
    (hd : exec (.divide n) s = .next u) (hg : u.inst? n = some g) (hk : divideMany n k u = some (outs, t)) :
    divideMany n (k + 1) s = some (g.divOut :: outs, t) := by
  rw [State.inst?] at hg
  simp only [divideMany, hd, hg, hk]

/-- Any number of divisions complete; from a count below the factor `D`, each is high when the count of all edges so far
is a multiple of `D`. -/
theorem divideMany_of_count_lt {n : U4} {D : Nat} (k : Nat) {s : State} {g : GenInst} (hg : s.inst? n = some g)
    (hD : g.p .clkDiv = D) (hc : s.shared.divcnt.toNat < D) :
    ∃ t, divideMany n k s =
      some ((List.range k).map fun j => decide (D ∣ s.shared.divcnt.toNat + (j + 1)), t) := by
  induction k generalizing s g with
  | zero => exact ⟨s, rfl⟩
  | succ k ih =>
    obtain ⟨hcount, hout⟩ := divideOp_counts_mod (r := ⟨s.shared, g⟩) hD hc
    have hg' : ((s.putReach n (divideOp ⟨s.shared, g⟩)).withRet .none).inst? n = some (divideOp ⟨s.shared, g⟩).inst :=
      List.getElem?_set_self (State.inst?_eq_some hg).1
    have hD' : (divideOp ⟨s.shared, g⟩).inst.p .clkDiv = D := by
      rw [GenInst.p, divideOp_params]
      exact hD
    obtain ⟨t, hk⟩ := ih hg' hD' (hcount.trans_lt (Nat.mod_lt _ (by omega)))
    have hshift (j : Nat) : D ∣ (s.shared.divcnt.toNat + 1) % D + (j + 1) ↔ D ∣ s.shared.divcnt.toNat + (j + 1 + 1) := by
      rw [Nat.dvd_iff_mod_eq_zero, Nat.dvd_iff_mod_eq_zero, Nat.mod_add_mod, Nat.add_assoc, Nat.add_comm 1]
    refine ⟨t, ?_⟩
    rw [divideMany_succ (exec_divide_of_inst hg) hg' hk, hout, List.range_succ_eq_map, List.map_cons, List.map_map]
    simp only [State.withRet_shared, State.putReach_shared, hcount, hshift]
    rfl

theorem count_true_multiples (D N : Nat) : ((List.range N).map fun j => decide (D ∣ j + 1)).count true = N / D := by
  induction N with
  | zero => simp
  | succ N ih =>
    rw [List.range_succ, List.map_append, List.count_append, ih, Nat.succ_div]
    by_cases hdvd : D ∣ N + 1 <;> simp [hdvd]

/-- Settles O52: from the count 0, the count of all edges so far is the number of the run. -/
theorem dividerFiresEveryDthEdge : Obligations.DividerFiresEveryDthEdge := by
  intro s n g D N hg hD hpos hzero
  have hcount : s.shared.divcnt.toNat = 0 := by
    rw [hzero]
    rfl
  obtain ⟨t, hruns⟩ := divideMany_of_count_lt N hg hD (by omega)
  simp only [hcount, Nat.zero_add] at hruns
  exact ⟨_, t, hruns, rfl, count_true_multiples D N⟩

end Sys2Proof.Machine
end

section
/-! The frame orchestrator (spec/46_frame_step.md R215 to R217): a STEP as the sequence of its internal operations, and what
it leaves in the record of the generator stepped. -/

namespace Sys2Proof.Machine

open Sys2Proof.Spec

/-! ### Running the lines of a STEP one after the other -/

theorem andThen_assoc (o : Host.Outcome State Fault Refusal) (f g : State → Host.Outcome State Fault Refusal) :
    andThen (andThen o f) g = andThen o fun s => andThen (f s) g := by
  cases o <;> rfl

@[simp] theorem andThen_next (s : State) (f : State → Host.Outcome State Fault Refusal) :
    andThen (.next s) f = f s := rfl

@[simp] theorem andThen_fault (e : Fault) (f : State → Host.Outcome State Fault Refusal) :
    andThen (.fault e) f = .fault e := rfl

/-- The state between two lines of a STEP of generator `n`: `r` is what the lines so far have made of what they reach, `v`
what the last of them returned (log 8), and the rest stands as in `s`. -/
def State.midStep (s : State) (n : U4) (r : Reach) (v : Ret) : State := (s.putReach n r).withRet v

@[simp] theorem State.midStep_inp (s : State) (n : U4) (r : Reach) (v : Ret) : (s.midStep n r v).inp = s.inp := rfl

@[simp] theorem State.midStep_ret (s : State) (n : U4) (r : Reach) (v : Ret) : (s.midStep n r v).ret = v := rfl

/-- Each line writes over what the lines before it reached and returned. -/
theorem State.midStep_midStep (s : State) (n : U4) (r r' : Reach) (v v' : Ret) :
    (s.midStep n r v).midStep n r' v' = s.midStep n r' v' := by
  simp [State.midStep, State.putReach, State.withRet]

/-- Before its first line a STEP has reached the record as it stands. -/
theorem State.midStep_start {s : State} {n : U4} {g : GenInst} (hg : s.inst? n = some g) :
    s.midStep n ⟨s.shared, g⟩ s.ret = s := by
  obtain ⟨hn, rfl⟩ := List.getElem?_eq_some_iff.mp hg
  simp [State.midStep, State.putReach, State.withRet]

section MidStep

variable {s : State} {n : U4} (hn : n.toNat < s.insts.length) (r : Reach) (v : Ret)

include hn

theorem State.midStep_inst? : (s.midStep n r v).inst? n = some r.inst := List.getElem?_set_self hn

/-- A line that is defined everywhere, run between two lines, goes on from what was reached. -/
theorem runOn_midStep (f : Reach → Reach) (ret : Reach → Ret) :
    runOn n (s.midStep n r v) (fun r => some (f r, ret r)) = .next (s.midStep n (f r) (ret r)) := by
  rw [runOn_total_of_inst (State.midStep_inst? hn r v)]
  exact congrArg _ (State.midStep_midStep s n _ _ _ _)

theorem exec_draw_midStep_of_some {d : Reach} (hd : drawOp Config.chip r = some d) :
    exec (.draw n) (s.midStep n r v) = .next (s.midStep n d .none) := by
  rw [exec_draw_of_inst (State.midStep_inst? hn r v) hd]
  exact congrArg _ (State.midStep_midStep s n _ _ _ _)

theorem exec_draw_midStep_of_none (hd : drawOp Config.chip r = none) :
    exec (.draw n) (s.midStep n r v) = .fault .orderAddress := by
  have hreach : (s.midStep n r v).reach? n = some r := State.reach?_of_inst? (State.midStep_inst? hn r v)
  simp [exec_draw, runOn, hreach, hd]

/-- Line 4 takes the value that HEXCV returned and stored (R215). -/
theorem quantLine_midStep :
    ∃ v', quantLine n (s.midStep n r (.real r.inst.outRaw)) = .next (s.midStep n (quantRawOp Config.chip r) v') := by
  have hrecord : (s.midStep n r (.real r.inst.outRaw)).insts[n.toNat]? = some r.inst := State.midStep_inst? hn r _
  rw [quantLine, hrecord]
  exact ⟨_, congrArg _ (State.midStep_midStep s n _ (quantRawOp Config.chip r) _ _)⟩

end MidStep

/-! ### The phases of a STEP as sequences of lines -/

/-- Lines 1 to 2b (R215), with the port levels `p`. -/
def clockLines (p : InPorts) (n : U4) (s : State) : Host.Outcome State Fault Refusal :=
  andThen (exec (.edge n .clk (q16Value p.clkIn)) s) fun t =>
    if t.ret = .bit true then andThen (exec (.draw n) t) (exec (.divide n)) else .next t

/-- Lines 5 to 6a (R215). -/
def triggerLines (p : InPorts) (n : U4) (s : State) : Host.Outcome State Fault Refusal :=
  andThen (exec (.edge n .trig (q16Value p.trigIn)) s) fun t =>
    if t.ret = .bit true then exec (.iseqAdv n) t else .next t

/-- Lines 3 to 8 (R215). -/
def sampleLines (p : InPorts) (n : U4) (s : State) : Host.Outcome State Fault Refusal :=
  andThen (exec (.hexcv n) s) fun t =>
  andThen (quantLine n t) fun t =>
  andThen (triggerLines p n t) fun t =>
  andThen (exec (.iseqVal n) t) (exec (.noise n))

theorem stepLines_eq (n : U4) (s : State) : stepLines n s =
    andThen (clockLines s.inp n s) fun t =>
    andThen (sampleLines s.inp n t) fun u => .next { u with cmdErr := false, ret := s.ret } := by
  simp only [stepLines, clockLines, sampleLines, triggerLines, andThen_assoc]

/-- The clock's part of a STEP is undefined only where its draw is (log 10). -/
theorem clockPhase_eq_none_iff {cfg : Config} {p : InPorts} {r : Reach} : clockPhase cfg p r = none ↔
    riseOf .clk (q16Value p.clkIn) r.inst = true ∧ drawOp cfg (edgeOp .clk (q16Value p.clkIn) r) = none := by
  cases hrise : riseOf .clk (q16Value p.clkIn) r.inst <;> simp [clockPhase, hrise]

section Phases

variable {s : State} {n : U4} (hn : n.toNat < s.insts.length) (p : InPorts) (r : Reach) (v : Ret)

include hn

theorem clockLines_of_some {c : Reach} (hc : clockPhase Config.chip p r = some c) :
    ∃ v', clockLines p n (s.midStep n r v) = .next (s.midStep n c v') := by
  rw [clockLines, exec_edge, runOn_midStep hn, andThen_next, State.midStep_ret]
  rcases clockPhase_cases hc with ⟨hrise, rfl⟩ | ⟨hrise, d, hd, rfl⟩
  · rw [hrise, if_neg (by decide)]
    exact ⟨_, rfl⟩
  · rw [hrise, if_pos rfl, exec_draw_midStep_of_some hn _ _ hd, andThen_next, exec_divide, runOn_midStep hn]
    exact ⟨_, rfl⟩

theorem clockLines_of_none (hc : clockPhase Config.chip p r = none) :
    clockLines p n (s.midStep n r v) = .fault .orderAddress := by
  obtain ⟨hrise, hd⟩ := clockPhase_eq_none_iff.mp hc
  rw [clockLines, exec_edge, runOn_midStep hn, andThen_next, State.midStep_ret, hrise, if_pos rfl,
    exec_draw_midStep_of_none hn _ _ hd, andThen_fault]

theorem triggerLines_midStep :
    ∃ v', triggerLines p n (s.midStep n r v) = .next (s.midStep n (triggerPhase p r) v') := by
  rw [triggerLines, exec_edge, runOn_midStep hn, andThen_next, State.midStep_ret, triggerPhase]
  cases riseOf .trig (q16Value p.trigIn) r.inst with
  | false => exact ⟨_, rfl⟩
  | true =>
    rw [if_pos rfl, exec_iseqAdv, runOn_midStep hn]
    exact ⟨_, rfl⟩

theorem sampleLines_midStep :
    ∃ v', sampleLines s.inp n (s.midStep n r v) = .next (s.midStep n (samplePhase Config.chip s.inp r) v') := by
  obtain ⟨v₄, hquant⟩ := quantLine_midStep hn (hexcvOp Config.chip r)
  obtain ⟨v₆, htrigger⟩ := triggerLines_midStep hn s.inp (quantRawOp Config.chip (hexcvOp Config.chip r)) v₄
  rw [sampleLines, exec_hexcv, runOn_midStep hn, andThen_next, hquant, andThen_next, htrigger, andThen_next,
    exec_iseqVal, runOn_midStep hn, andThen_next, exec_noise, runOn_midStep hn]
  exact ⟨_, rfl⟩

end Phases

theorem stepCommand_of_undefined {cfg : Config} {n : U4} {s : State} {g : GenInst} (hg : s.inst? n = some g)
    (hc : clockPhase cfg s.inp ⟨s.shared, g⟩ = none) : stepCommand cfg n s = .fault .orderAddress := by
  simp [stepCommand, State.reach?_of_inst? hg, frameOp, hc]

/-- Settles O53: the lines of the clock's part and of the sample make of what they reach what the two phases of STEP make of
it, and both stop alike where the draw is undefined. -/
theorem stepIsItsOperationsInOrder : Obligations.StepIsItsOperationsInOrder := by
  intro s n hn
  have hg : s.inst? n = some s.insts[n.toNat] := List.getElem?_eq_getElem hn
  rw [exec_step, stepLines_eq]
  cases hc : clockPhase Config.chip s.inp ⟨s.shared, s.insts[n.toNat]⟩ with
  | none =>
    have hlines := clockLines_of_none hn s.inp _ s.ret hc
    rw [State.midStep_start hg] at hlines
    rw [stepCommand_of_undefined hg hc, hlines, andThen_fault]
  | some c =>
    obtain ⟨v₂, hclock⟩ := clockLines_of_some hn s.inp _ s.ret hc
    obtain ⟨v₈, hsample⟩ := sampleLines_midStep hn c v₂
    rw [State.midStep_start hg] at hclock
    rw [stepCommand_of_inst hg hc, hclock, andThen_next, hsample, andThen_next]
    rfl

/-! ### What a STEP leaves in the record -/

theorem riseOf_trig_iff {s : State} {g : GenInst} :
    riseOf .trig (q16Value s.inp.trigIn) g = true ↔ risesTrig s g := by
  rw [riseOf_eq_decide]
  exact decide_eq_true_iff

/-- The record after a sample, field by field (R215): the class of OUT_ISEQ is taken after the trigger's part. -/
theorem samplePhase_inst (cfg : Config) (p : InPorts) (r : Reach) :
    (samplePhase cfg p r).inst = { r.inst with
      trigPrev := isHigh (q16Value p.trigIn)
      iseqPos := if riseOf .trig (q16Value p.trigIn) r.inst then r.inst.iseqPos + 1 else r.inst.iseqPos
      outRaw := cfg.hexCv r.inst.hexval
      outQuant := r.inst.quantize cfg (cfg.hexCv r.inst.hexval)
      outIseq := r.inst.quantize cfg (((triggerPhase p r).inst.seqClass cfg : REAL) / 12)
      outNoise := (filterOp cfg (r.inst.p .noiseType) p.sr (whiteOp cfg r.shared).2 (whiteOp cfg r.shared).1).2 } := by
  have htrigger := triggerPhase_inst p (quantRawOp cfg (hexcvOp cfg r))
  simp only [samplePhase, noiseOp, iseqValOp, htrigger, triggerPhase_inst p r, triggerPhase_shared]
  rfl

/-- A draw writes ORDER, CURSOR and LINES alone of the record (R124). -/
theorem drawOp_inst {cfg : Config} {r d : Reach} (hd : drawOp cfg r = some d) :
    d.inst = { r.inst with order := d.inst.order, cursor := d.inst.cursor, lines := d.inst.lines } := by
  obtain ⟨-, ⟨-, rfl⟩ | ⟨-, rfl⟩⟩ := drawOp_cases hd <;> rfl

/-- DIVIDE writes DIV_OUT alone of the record (R204). -/
theorem divideOp_inst (r : Reach) : (divideOp r).inst =
    { r.inst with divOut := decide (r.inst.p .clkDiv ≤ (r.shared.divcnt.toNat : Int) + 1) } := by
  rcases divideOp_cases r with ⟨hfires, h⟩ | ⟨hcounts, h⟩ <;> rw [h]
  · rw [decide_eq_true hfires]
  · rw [decide_eq_false hcounts.not_ge]

/-- The record after the clock's part of a STEP: apart from the scheduler, the latch and DIV_OUT alone are written. -/
theorem clockPhase_inst {cfg : Config} {p : InPorts} {r c : Reach} (hc : clockPhase cfg p r = some c) :
    c.inst = { r.inst with
      order := c.inst.order
      cursor := c.inst.cursor
      lines := c.inst.lines
      clkPrev := isHigh (q16Value p.clkIn)
      divOut := if riseOf .clk (q16Value p.clkIn) r.inst then
        decide (r.inst.p .clkDiv ≤ (r.shared.divcnt.toNat : Int) + 1) else r.inst.divOut } := by
  rcases clockPhase_cases hc with ⟨hrise, rfl⟩ | ⟨hrise, d, hd, rfl⟩
  · rw [hrise]
    rfl
  · rw [divideOp_inst, drawOp_inst hd, drawOp_shared hd, hrise]
    rfl

/-- QUANT takes the four parameters that the register file holds (R42). -/
theorem quantize_of_params {g g' : GenInst} (h : g'.params = g.params) (v : REAL) : g'.quantize Config.chip v =
    quantOf Config.chip v (g.p .scale) (g.p .root) (g.p .transpose) (g.p .maskRot) := by
  simp only [GenInst.quantize, GenInst.p_congr h]

/-- Settles O54: the two phases of the STEP, field by field; neither writes a parameter, so every value is taken with the
parameters of the start. -/
theorem stepWritesAllStreams : Obligations.StepWritesAllStreams := by
  intro s n g hg hc
  obtain ⟨c, hclock, hstep⟩ := exec_step_of_inst hg hc
  have hrecord := clockPhase_inst hclock
  have hparams : c.inst.params = g.params := clockPhase_params hclock
  have hpos : c.inst.iseqPos = g.iseqPos := by rw [hrecord]
  have hclkPrev : c.inst.clkPrev = isHigh (q16Value s.inp.clkIn) := by rw [hrecord]
  have htrig : riseOf .trig (q16Value s.inp.trigIn) c.inst = true ↔ risesTrig s g := by
    rw [hrecord]
    exact riseOf_trig_iff
  have hdivOut : c.inst.divOut =
      if risesClk s g then decide (g.p .clkDiv ≤ (s.shared.divcnt.toNat : Int) + 1) else g.divOut := by
    rw [hrecord]
    simp only [riseOf_clk_iff]
  refine ⟨_, _, hstep, rfl, ?_⟩
  rw [samplePhase_inst]
  refine ⟨hparams, hclkPrev, rfl, rfl, quantize_of_params hparams _, ?_, fun hwhite => ?_, ?_,
    fun hclk => hdivOut.trans (if_neg hclk), fun hclk => hdivOut.trans (if_pos hclk)⟩
  · rw [triggerPhase_inst]
    exact quantize_of_params hparams _
  · rw [State.accepted_shared, State.putReach_shared, samplePhase_rng, GenInst.p_congr hparams, hwhite, filterOp_zero,
      whiteOp_chip]
  · simp only [htrig, hpos]

/-- Settles O55: without a clock edge the clock's part only sets its latch, and without a trigger edge the position stays. -/
theorem stepWithoutEdgeChangesOutputsOnly : Obligations.StepWithoutEdgeChangesOutputsOnly := by
  intro s n g hg hclk htrig
  have hclock : clockPhase Config.chip s.inp ⟨s.shared, g⟩ = some (edgeOp .clk (q16Value s.inp.clkIn) ⟨s.shared, g⟩) :=
    if_neg (mt riseOf_clk_iff.mp hclk)
  have hrise : riseOf .trig (q16Value s.inp.trigIn) (edgeOp .clk (q16Value s.inp.clkIn) ⟨s.shared, g⟩).inst = false :=
    Bool.eq_false_iff.mpr (mt riseOf_trig_iff.mp htrig)
  obtain ⟨-, -, -, -, -, -, hrng, hdivcnt⟩ :=
    samplePhase_frame Config.chip s.inp (edgeOp .clk (q16Value s.inp.clkIn) ⟨s.shared, g⟩)
  refine ⟨_, _, stepCommand_of_inst hg hclock, rfl, hrng, hdivcnt, ?_⟩
  rw [samplePhase_inst, hrise]
  rfl

end Sys2Proof.Machine
end

section
/-! The exceptions (spec/60_exceptions.md R230): every well-formed operation completes and no step faults, so a run shows
the ports after every command (spec/70_reset_and_hazards.md R256, R271). -/

namespace Sys2Proof.Machine

/-! ### Every well-formed operation -/

theorem State.Inv.cursor_lt {s : State} (hs : s.Inv) : ∀ g ∈ s.insts, g.cursor.toNat < 64 :=
  fun g hg => (hs.inst_inv g hg).cursor_lt

/-- An internal operation with an effect on everything it can reach asks for nothing but its generator. -/
theorem runOn_total_goesOn {n : U4} {s : State} (hn : n.toNat < s.insts.length) (f : Reach → Reach) (ret : Reach → Ret) :
    goesOn (runOn n s fun r => some (f r, ret r)) := by
  obtain ⟨g, hg⟩ := State.exists_inst? hn
  exact ⟨_, runOn_of_inst hg rfl⟩

/-- DRAW asks besides for a cursor that is an address of ORDER (R61, log 10). -/
theorem exec_draw_goesOn {n : U4} {s : State} (hn : n.toNat < s.insts.length)
    (hcursor : ∀ g ∈ s.insts, g.cursor.toNat < 64) : goesOn (exec (.draw n) s) := by
  obtain ⟨g, hg⟩ := State.exists_inst? hn
  obtain ⟨d, hd⟩ := Option.isSome_iff_exists.mp
    (drawOp_isSome (cfg := Config.chip) (r := ⟨s.shared, g⟩) (hcursor g (State.inst?_eq_some hg).2))
  exact ⟨_, exec_draw_of_inst hg hd⟩

/-- Settles O14: a host command completes by R86, an internal operation without a generator always, one of a generator
wherever the generator exists, and DRAW by the invariant's bound on the cursor. -/
theorem everyWellFormedOperationCompletes : Obligations.EveryWellFormedOperationCompletes := by
  intro i s hs hwf
  obtain ⟨hinst, -⟩ := (Laws.operandsChecked_all i _).mp hwf
  cases i with
  | nop | step | wrparam | rdparam | rdhex =>
    obtain ⟨t, ht, -⟩ := exec_of_wellFormed rfl hwf hs.cursor_lt
    exact ⟨t, ht⟩
  | rand | scale | quant | iseqOffLoop | iseqOffPend | white | noiseWhite | noisePink | noiseBrown | noiseBlue =>
    exact ⟨_, rfl⟩
  | draw n => exact exec_draw_goesOn (hinst n rfl) hs.cursor_lt
  | shuffle n | hexcv n | iseqVal n | iseqAdv n | noise n | edge n | divide n =>
    exact runOn_total_goesOn (hinst n rfl) _ _

/-! ### Every step -/

/-- R230 for the five commands: one that is not well formed is not accepted, and goes on too (R86). -/
theorem exec_goesOn_of_decode {w : U32} {i : Instr} {s : State} (hd : decode w = .ok i) (hs : s.Inv) :
    goesOn (exec i s) := by
  by_cases hwf : i.wellFormed s.insts.length = true
  · exact everyWellFormedOperationCompletes i s hs hwf
  · exact ⟨_, exec_of_not_wellFormed (encode_isSome_of_decode hd) hwf⟩

theorem step_goesOn {s : State} (hs : s.Inv) : goesOn (step s) := by
  rcases step_cases s with ⟨-, h⟩ | ⟨p, rest, -, ⟨-, h⟩ | ⟨-, -, h⟩ | ⟨-, -, -, h⟩ | ⟨-, -, i, hd, h⟩⟩
  case inr.inr.inr.inr =>
    rw [h]
    exact exec_goesOn_of_decode hd (hs.congr rfl rfl)
  all_goals exact ⟨_, h⟩

/-! ### What a run shows -/

theorem State.Inv.step_present {s : State} (hs : s.Inv) (p : InPorts) : ∃ t, step (s.present p) = .next t ∧ t.Inv := by
  have hp : (s.present p).Inv := hs.congr rfl rfl
  obtain ⟨t, ht⟩ := step_goesOn hp
  exact ⟨t, ht, stepKeepsInvariant _ t hp ht⟩

theorem State.shows_cons_of_command {s t : State} {p : InPorts} (h : step (s.present p) = .next t)
    (hp : p.isCommand = true) (ps : List InPorts) : s.shows (p :: ps) = t.observe :: t.shows ps :=
  (State.shows_cons h ps).trans (if_pos hp)

/-- One entry for each command, the ports after it (R271, D41). -/
theorem State.Inv.shows_commands {s : State} (hs : s.Inv) {cmds : List InPorts}
    (hcmds : ∀ p ∈ cmds, p.isCommand = true) :
    (s.shows cmds).length = cmds.length ∧
    ∀ k, k < cmds.length → ∃ t, s.after (cmds.take (k + 1)) = some t ∧ (s.shows cmds)[k]? = some t.observe := by
  induction cmds generalizing s with
  | nil => exact ⟨rfl, fun k hk => absurd hk k.not_lt_zero⟩
  | cons p ps ih =>
    obtain ⟨hp, hps⟩ := List.forall_mem_cons.mp hcmds
    obtain ⟨t, ht, htinv⟩ := hs.step_present p
    obtain ⟨hlength, hentries⟩ := ih htinv hps
    rw [State.shows_cons_of_command ht hp]
    refine ⟨congrArg Nat.succ hlength, fun k hk => ?_⟩
    rw [List.take_succ_cons, State.after_cons ht]
    cases k with
    | zero => exact ⟨t, rfl, rfl⟩
    | succ k => exact hentries k (Nat.lt_of_succ_lt_succ hk)

/-- The `rst` of a run shows no entry of its own and leaves nothing of the state before it (R256). -/
theorem State.runShows_eq (s : State) (cmds : List InPorts) :
    s.runShows cmds = (State.reset.drive presentReset []).shows cmds :=
  State.shows_cons (step_present_reset s) cmds

/-- Settles O13: no step of the invariant faults; a run goes from the reset state, which has the invariant, through states
that have it, whatever the state before the `rst`. -/
theorem noStepFaults : Obligations.NoStepFaults := by
  refine ⟨fun s hs => step_goesOn hs, fun s cmds hcmds => ?_⟩
  have hreset : (State.reset.drive presentReset []).Inv := reset_inv.congr rfl rfl
  obtain ⟨hlength, hentries⟩ := hreset.shows_commands hcmds
  rw [s.runShows_eq cmds]
  refine ⟨hlength, fun k hk => ?_, fun s' => s'.runShows_eq cmds⟩
  rw [State.after_cons (step_present_reset s)]
  exact hentries k hk

end Sys2Proof.Machine
end

section
/-! The reset port (spec/70_reset_and_hazards.md R250). -/

namespace Sys2Proof.Machine

/-- Settles O7: fetch takes `rst` before it looks at `cmdValid` (log 7), so no instruction runs and the step settles in
the driven reset state, which holds nothing of the state before. -/
theorem resetPortRunsResetProcedure : Obligations.ResetPortRunsResetProcedure := by
  intro s p rest hhost hrst
  have hfetch : s.fetch = .settled (State.reset.drive p rest) := fetch_reset hhost hrst
  exact step_of_fetch_settled hfetch

end Sys2Proof.Machine
end
